-- ==== Sys2Proof/Word.lean ====
section
/-! DEFINITION. The bit-vector types of the block (00_scope.md R7, R9; 30_encoding.md R70, R74). -/

namespace Sys2Proof

/-- A byte: 8 bits, an unsigned integer 0 to 255 (R9). -/
abbrev Byte := BitVec 8

/-- A CRC register or checksum: 32 bits (R100). -/
abbrev Crc := BitVec 32

/-- An operation word: 80 bits, bit 79 most significant (R70). -/
abbrev OpWord := BitVec 80

/-- The `res` half of the result port, or an operand port: 64 bits, eight byte lanes (R74). -/
abbrev Port64 := BitVec 64

/-- A 4-bit index, `i` or `j` of an operation word (R70, R71). -/
abbrev Nibble := BitVec 4

end Sys2Proof
end

