-- ==== Sys2Proof/Config.lean ====
section
/-! DEFINITION. The constants the source fixes (00_scope.md R6) and the free value `STALE_READ` (R8, R179). -/

namespace Sys2Proof.Config

/-- `MIN_MSG_LEN` (R6): the empty message's frame. -/
def minMsgLen : Nat := 7

/-- `MAX_MSG_LEN` and `BUF_SIZE` (R6): bytes of the longest frame, and of `buf`. -/
def bufSize : Nat := 247

/-- `MAX_OBJS` and `MSG_SLOTS` (R6). -/
def maxObjs : Nat := 15

/-- `MAX_STR` (R6): the most bytes a String holds. -/
def maxStr : Nat := 15

/-- `STR_STORE` (R6): the capacity of the software's NUL-terminated String storage. -/
def strStore : Nat := 16

/-- `HDR0` (R6, R77). -/
def hdr0 : Byte := 0x92

/-- `HDR1` (R6, R77), the CRC tag. -/
def hdr1 : Byte := 0xCE

/-- `LEN_BASE` (R6, R79). -/
def lenBase : Byte := 0x90

/-- `STR_BASE` (R6, R80). -/
def strBase : Byte := 0xA0

/-- `CRC_POLY` (R6, R100), in the reflected form. -/
def crcPoly : Crc := 0xEDB88320

/-- `CRC_XOR` (R6, R100). -/
def crcXor : Crc := 0xFFFFFFFF

/-- `STALE_READ` (R8, R179): what the `n`th undefined `MSG.*` read returns. It has no body, so
nothing can be proved of its values; `n` is a counter in State, so two reads may differ.
A free value (log 3; safe). -/
opaque staleRead : Nat → Port64

end Sys2Proof.Config
end

