-- ==== Sys2Proof/Syntax.lean ====
section
/-! DEFINITION. The instructions: one constructor per row of spec/opcode_table.json, that is the eighteen
operations of the operation port (30_encoding.md R72) and the wire-format byte patterns the synchronizer
decodes (30_encoding.md R77 to R81). Also the kinds and tags, and the two pseudo-operations of R75. -/

namespace Sys2Proof

/-- What the block can be given: an operation at its operation port, or (constructors `wire…`, `tag…`)
a wire byte in a role the table names (log 10). -/
inductive Instr where
  | nop
  | crcSeed (seed : Crc)
  | crcByte (b : Byte)
  | crcRead
  | syncPut (b : Byte)
  | msgLen
  | msgKind (i : Nibble)
  | msgVal (i : Nibble)
  | msgSlen (i : Nibble)
  | msgStrb (i j : Nibble)
  | bePack8 (v : BitVec 8)
  | bePack16 (v : BitVec 16)
  | bePack32 (v : BitVec 32)
  | bePack64 (v : BitVec 64)
  | beUnpack8 (lanes : BitVec 8)
  | beUnpack16 (lanes : BitVec 16)
  | beUnpack32 (lanes : BitVec 32)
  | beUnpack64 (lanes : BitVec 64)
  | wireHdr0
  | wireHdr1
  | wireCrc (c : Byte)
  | wireCount (n : Nibble)
  | tagBoolFalse
  | tagBoolTrue
  | tagFloat
  | tagDouble
  | tagUint8
  | tagUint16
  | tagUint32
  | tagUint64
  | tagInt8
  | tagInt16
  | tagInt32
  | tagInt64
  | tagString (l : Nibble)
deriving DecidableEq, Repr

/-- The primitive kinds, in the source's order (10_state.md R28). -/
inductive Kind where
  | untyped | bool | uint8 | uint16 | uint32 | uint64 | int8 | int16 | int32 | int64
  | float | double | string
deriving DecidableEq, Repr

/-- A known tag (30_encoding.md R80): the first byte of an encoded object, decoded. -/
inductive Tag where
  | boolFalse | boolTrue | float | double
  | uint8 | uint16 | uint32 | uint64 | int8 | int16 | int32 | int64
  | string (l : Nibble)
deriving DecidableEq, Repr

/-- `SYNC.FEED b0 b1 … bk` (30_encoding.md R75): one `SYNC.PUT` a byte. -/
def syncFeed (bs : List Byte) : List Instr := bs.map .syncPut

/-- `CRC.FEED b0 b1 … bk` (30_encoding.md R75): one `CRC.BYTE` a byte. -/
def crcFeedOps (bs : List Byte) : List Instr := bs.map .crcByte

end Sys2Proof
end

