-- ==== Sys2Proof/WellFormed.lean ====
section
/-! DEFINITION. Which instruction terms are instructions at all (30_encoding.md R73): slot and byte indices
stop at 14. Every other operand is as wide as its field, so no other check is needed. -/

namespace Sys2Proof

/-- "for the `MSG.*` operations with an index, the value `i = 15` is also reserved" (R73). -/
def slotIndexOk (i : Nibble) : Bool := i != 15

/-- "for `MSG.STRB` the value `j = 15` is reserved" (R73). -/
def byteIndexOk (j : Nibble) : Bool := j != 15

/-- The instruction has an encoding (R71 to R73 for the operations, R77 to R80 for the wire bytes). -/
def Instr.wellFormed : Instr → Bool
  | .nop => true
  | .crcSeed _ => true
  | .crcByte _ => true
  | .crcRead => true
  | .syncPut _ => true
  | .msgLen => true
  | .msgKind i => slotIndexOk i
  | .msgVal i => slotIndexOk i
  | .msgSlen i => slotIndexOk i
  | .msgStrb i j => slotIndexOk i && byteIndexOk j
  | .bePack8 _ => true
  | .bePack16 _ => true
  | .bePack32 _ => true
  | .bePack64 _ => true
  | .beUnpack8 _ => true
  | .beUnpack16 _ => true
  | .beUnpack32 _ => true
  | .beUnpack64 _ => true
  | .wireHdr0 => true
  | .wireHdr1 => true
  | .wireCrc _ => true
  | .wireCount _ => true
  | .tagBoolFalse => true
  | .tagBoolTrue => true
  | .tagFloat => true
  | .tagDouble => true
  | .tagUint8 => true
  | .tagUint16 => true
  | .tagUint32 => true
  | .tagUint64 => true
  | .tagInt8 => true
  | .tagInt16 => true
  | .tagInt32 => true
  | .tagInt64 => true
  | .tagString _ => true

end Sys2Proof
end

