-- ==== Sys2Proof/Decode.lean ====
section
/-! DEFINITION. Decoding and encoding: operation words (30_encoding.md Part A, R70 to R73) and wire bytes
(30_encoding.md Part B, R77 to R82), the masks and matches of spec/opcode_table.json, and the host's
decodeTableWord. The encoder stands after the decoder and is written from the same tables. -/

namespace Sys2Proof

/-! ## The operation word (R70 to R73) -/

/-- Why a word or byte decodes to nothing. The first four refuse an operation word (R73); the last three
say that a wire byte is not what its role takes (R77, R79, R82). -/
inductive DecodeError where
  /-- The opcode is not one of the eighteen of R72. -/
  | reservedOpcode
  /-- A bit the operation does not read is 1 (R71, R73). -/
  | reservedBits
  /-- `i = 15` where a slot index is read (R73). -/
  | reservedSlotIndex
  /-- `j = 15` where a byte index is read (R73). -/
  | reservedByteIndex
  /-- Not the header byte of its offset (R77). -/
  | notHeaderByte
  /-- Not `0x90` to `0x9F` (R79). -/
  | notCountByte
  /-- Not in the tag table (R82). -/
  | unknownTag
deriving DecidableEq, Repr

/-- Bits 79:72 (R70). -/
def OpWord.opcode (w : OpWord) : BitVec 8 := w.extractLsb' 72 8

/-- Bits 71:68, the byte index within a String (R70). -/
def OpWord.j (w : OpWord) : Nibble := w.extractLsb' 68 4

/-- Bits 67:64, the slot index (R70). -/
def OpWord.i (w : OpWord) : Nibble := w.extractLsb' 64 4

/-- Bits 63:0, the operand (R70). -/
def OpWord.arg (w : OpWord) : Port64 := w.extractLsb' 0 64

/-- An operation that reads `arg[n−1:0]` and nothing else of the word: every other bit below the opcode
is reserved and must be zero (R71). With `n = 0` the operation reads no operand. -/
def decodeArg (n : Nat) (w : OpWord) (op : BitVec n → Instr) : Except DecodeError Instr :=
  if OpWord.j w = 0 ∧ OpWord.i w = 0 ∧ OpWord.arg w >>> n = 0 then
    .ok (op ((OpWord.arg w).setWidth n))
  else
    .error .reservedBits

/-- An operation that reads the slot index `i` alone (R71, R73). -/
def decodeSlot (w : OpWord) (op : Nibble → Instr) : Except DecodeError Instr :=
  if OpWord.j w = 0 ∧ OpWord.arg w = 0 then
    if slotIndexOk (OpWord.i w) then .ok (op (OpWord.i w)) else .error .reservedSlotIndex
  else
    .error .reservedBits

/-- An operation that reads the slot index `i` and the byte index `j` (R71, R73). -/
def decodeSlotByte (w : OpWord) (op : Nibble → Nibble → Instr) : Except DecodeError Instr :=
  if OpWord.arg w = 0 then
    if slotIndexOk (OpWord.i w) then
      if byteIndexOk (OpWord.j w) then .ok (op (OpWord.i w) (OpWord.j w))
      else .error .reservedByteIndex
    else .error .reservedSlotIndex
  else
    .error .reservedBits

/-- The operation an operation word spells, by the opcode map of R72, or why it is refused (R73).
Total on all 80-bit words. -/
def decodeOp (w : OpWord) : Except DecodeError Instr :=
  match (OpWord.opcode w).toNat with
  | 0x00 => decodeArg 0 w fun _ => .nop
  | 0x10 => decodeArg 32 w .crcSeed
  | 0x11 => decodeArg 8 w .crcByte
  | 0x12 => decodeArg 0 w fun _ => .crcRead
  | 0x20 => decodeArg 8 w .syncPut
  | 0x30 => decodeArg 0 w fun _ => .msgLen
  | 0x31 => decodeSlot w .msgKind
  | 0x32 => decodeSlot w .msgVal
  | 0x33 => decodeSlot w .msgSlen
  | 0x34 => decodeSlotByte w .msgStrb
  | 0x40 => decodeArg 8 w .bePack8
  | 0x41 => decodeArg 16 w .bePack16
  | 0x42 => decodeArg 32 w .bePack32
  | 0x43 => decodeArg 64 w .bePack64
  | 0x48 => decodeArg 8 w .beUnpack8
  | 0x49 => decodeArg 16 w .beUnpack16
  | 0x4A => decodeArg 32 w .beUnpack32
  | 0x4B => decodeArg 64 w .beUnpack64
  | _ => .error .reservedOpcode

/-! ## The wire bytes (R77 to R82) -/

/-- Where in a frame a wire byte stands; "which it is depends only on the offset, never on the byte"
(R81; the map is 20_memory.md R51). A payload byte has no role here: the table has no pattern for it. -/
inductive WireRole where
  | hdr0 | hdr1 | crcField | count | tag
deriving DecidableEq, Repr

/-- The tag table of R80: the tag a byte stands for where a tag is expected; `none` for the 228
unknown ones (R82). -/
def decodeTag (b : Byte) : Option Tag :=
  if b.extractLsb' 4 4 = 0xA then some (.string (b.setWidth 4))
  else match b.toNat with
    | 0xC2 => some .boolFalse
    | 0xC3 => some .boolTrue
    | 0xCA => some .float
    | 0xCB => some .double
    | 0xCC => some .uint8
    | 0xCD => some .uint16
    | 0xCE => some .uint32
    | 0xCF => some .uint64
    | 0xD0 => some .int8
    | 0xD1 => some .int16
    | 0xD2 => some .int32
    | 0xD3 => some .int64
    | _ => none

/-- The instruction a decoded tag is (one row of the opcode table each). -/
def Tag.instr : Tag → Instr
  | .boolFalse => .tagBoolFalse
  | .boolTrue => .tagBoolTrue
  | .float => .tagFloat
  | .double => .tagDouble
  | .uint8 => .tagUint8
  | .uint16 => .tagUint16
  | .uint32 => .tagUint32
  | .uint64 => .tagUint64
  | .int8 => .tagInt8
  | .int16 => .tagInt16
  | .int32 => .tagInt32
  | .int64 => .tagInt64
  | .string l => .tagString l

/-- A wire byte in a role (R77 to R82). -/
def decodeWire (role : WireRole) (b : Byte) : Except DecodeError Instr :=
  match role with
  | .hdr0 => if b = Config.hdr0 then .ok .wireHdr0 else .error .notHeaderByte
  | .hdr1 => if b = Config.hdr1 then .ok .wireHdr1 else .error .notHeaderByte
  | .crcField => .ok (.wireCrc b)
  | .count => if b.extractLsb' 4 4 = 0x9 then .ok (.wireCount (b.setWidth 4)) else .error .notCountByte
  | .tag => match decodeTag b with
    | some t => .ok t.instr
    | none => .error .unknownTag

/-! ## The encoder -/

/-- An encoded instruction: an operation word, or a wire byte with the role it is sent in. -/
inductive Code where
  | op (w : OpWord)
  | wire (role : WireRole) (b : Byte)
deriving DecidableEq, Repr

/-- The four fields of R70 put together: `opcode || j || i || arg`. -/
def opWord (opcode : BitVec 8) (j i : Nibble) (arg : Port64) : OpWord := opcode ++ j ++ i ++ arg

/-- The word of an operation that reads only `arg[n−1:0]` (R71). -/
def opWordArg {n : Nat} (opcode : BitVec 8) (v : BitVec n) : OpWord := opWord opcode 0 0 (v.setWidth 64)

/-- The byte of a tag (R80). -/
def Tag.byte : Tag → Byte
  | .boolFalse => 0xC2
  | .boolTrue => 0xC3
  | .float => 0xCA
  | .double => 0xCB
  | .uint8 => 0xCC
  | .uint16 => 0xCD
  | .uint32 => 0xCE
  | .uint64 => 0xCF
  | .int8 => 0xD0
  | .int16 => 0xD1
  | .int32 => 0xD2
  | .int64 => 0xD3
  | .string l => Config.strBase + l.setWidth 8

/-- The count byte `0x90 + N` (R79). -/
def countByte (n : Nibble) : Byte := Config.lenBase + n.setWidth 8

/-- The encoding of an instruction (R70 to R73, R77 to R80). -/
def encode : Instr → Code
  | .nop => .op (opWord 0x00 0 0 0)
  | .crcSeed s => .op (opWordArg 0x10 s)
  | .crcByte b => .op (opWordArg 0x11 b)
  | .crcRead => .op (opWord 0x12 0 0 0)
  | .syncPut b => .op (opWordArg 0x20 b)
  | .msgLen => .op (opWord 0x30 0 0 0)
  | .msgKind i => .op (opWord 0x31 0 i 0)
  | .msgVal i => .op (opWord 0x32 0 i 0)
  | .msgSlen i => .op (opWord 0x33 0 i 0)
  | .msgStrb i j => .op (opWord 0x34 j i 0)
  | .bePack8 v => .op (opWordArg 0x40 v)
  | .bePack16 v => .op (opWordArg 0x41 v)
  | .bePack32 v => .op (opWordArg 0x42 v)
  | .bePack64 v => .op (opWordArg 0x43 v)
  | .beUnpack8 v => .op (opWordArg 0x48 v)
  | .beUnpack16 v => .op (opWordArg 0x49 v)
  | .beUnpack32 v => .op (opWordArg 0x4A v)
  | .beUnpack64 v => .op (opWordArg 0x4B v)
  | .wireHdr0 => .wire .hdr0 Config.hdr0
  | .wireHdr1 => .wire .hdr1 Config.hdr1
  | .wireCrc c => .wire .crcField c
  | .wireCount n => .wire .count (countByte n)
  | .tagBoolFalse => .wire .tag Tag.boolFalse.byte
  | .tagBoolTrue => .wire .tag Tag.boolTrue.byte
  | .tagFloat => .wire .tag Tag.float.byte
  | .tagDouble => .wire .tag Tag.double.byte
  | .tagUint8 => .wire .tag Tag.uint8.byte
  | .tagUint16 => .wire .tag Tag.uint16.byte
  | .tagUint32 => .wire .tag Tag.uint32.byte
  | .tagUint64 => .wire .tag Tag.uint64.byte
  | .tagInt8 => .wire .tag Tag.int8.byte
  | .tagInt16 => .wire .tag Tag.int16.byte
  | .tagInt32 => .wire .tag Tag.int32.byte
  | .tagInt64 => .wire .tag Tag.int64.byte
  | .tagString l => .wire .tag (Tag.string l).byte

/-- Decoding of either kind of encoding. -/
def decode : Code → Except DecodeError Instr
  | .op w => decodeOp w
  | .wire role b => decodeWire role b

/-! ## The rows of spec/opcode_table.json -/

/-- A row of the opcode table: a mask, a match, and the row's `constraints` on the two indices (R73). Wire
rows are 8-bit patterns; a pattern's letters are mask zeros. -/
structure TableRow where
  mask : OpWord
  pattern : OpWord
  /-- The constraint `i != 15`. -/
  iBelow15 : Bool := false
  /-- The constraint `j != 15`. -/
  jBelow15 : Bool := false
deriving DecidableEq, Repr

/-- "a word `W` spells the operation of a row iff `(W AND mask) = match`, with the two extra index
conditions above stated in the row's `constraints`" (R73). -/
def TableRow.spells (r : TableRow) (w : OpWord) : Bool :=
  w &&& r.mask == r.pattern && (!r.iBelow15 || slotIndexOk (OpWord.i w)) &&
    (!r.jBelow15 || byteIndexOk (OpWord.j w))

/-- The row of an instruction, copied from spec/opcode_table.json. -/
def Instr.row : Instr → TableRow
  | .nop => ⟨0xFFFFFFFFFFFFFFFFFFFF, 0x00000000000000000000, false, false⟩
  | .crcSeed _ => ⟨0xFFFFFFFFFFFF00000000, 0x10000000000000000000, false, false⟩
  | .crcByte _ => ⟨0xFFFFFFFFFFFFFFFFFF00, 0x11000000000000000000, false, false⟩
  | .crcRead => ⟨0xFFFFFFFFFFFFFFFFFFFF, 0x12000000000000000000, false, false⟩
  | .syncPut _ => ⟨0xFFFFFFFFFFFFFFFFFF00, 0x20000000000000000000, false, false⟩
  | .msgLen => ⟨0xFFFFFFFFFFFFFFFFFFFF, 0x30000000000000000000, false, false⟩
  | .msgKind _ => ⟨0xFFF0FFFFFFFFFFFFFFFF, 0x31000000000000000000, true, false⟩
  | .msgVal _ => ⟨0xFFF0FFFFFFFFFFFFFFFF, 0x32000000000000000000, true, false⟩
  | .msgSlen _ => ⟨0xFFF0FFFFFFFFFFFFFFFF, 0x33000000000000000000, true, false⟩
  | .msgStrb _ _ => ⟨0xFF00FFFFFFFFFFFFFFFF, 0x34000000000000000000, true, true⟩
  | .bePack8 _ => ⟨0xFFFFFFFFFFFFFFFFFF00, 0x40000000000000000000, false, false⟩
  | .bePack16 _ => ⟨0xFFFFFFFFFFFFFFFF0000, 0x41000000000000000000, false, false⟩
  | .bePack32 _ => ⟨0xFFFFFFFFFFFF00000000, 0x42000000000000000000, false, false⟩
  | .bePack64 _ => ⟨0xFFFF0000000000000000, 0x43000000000000000000, false, false⟩
  | .beUnpack8 _ => ⟨0xFFFFFFFFFFFFFFFFFF00, 0x48000000000000000000, false, false⟩
  | .beUnpack16 _ => ⟨0xFFFFFFFFFFFFFFFF0000, 0x49000000000000000000, false, false⟩
  | .beUnpack32 _ => ⟨0xFFFFFFFFFFFF00000000, 0x4A000000000000000000, false, false⟩
  | .beUnpack64 _ => ⟨0xFFFF0000000000000000, 0x4B000000000000000000, false, false⟩
  | .wireHdr0 => ⟨0xFF, 0x92, false, false⟩
  | .wireHdr1 => ⟨0xFF, 0xCE, false, false⟩
  | .wireCrc _ => ⟨0x00, 0x00, false, false⟩
  | .wireCount _ => ⟨0xF0, 0x90, false, false⟩
  | .tagBoolFalse => ⟨0xFF, 0xC2, false, false⟩
  | .tagBoolTrue => ⟨0xFF, 0xC3, false, false⟩
  | .tagFloat => ⟨0xFF, 0xCA, false, false⟩
  | .tagDouble => ⟨0xFF, 0xCB, false, false⟩
  | .tagUint8 => ⟨0xFF, 0xCC, false, false⟩
  | .tagUint16 => ⟨0xFF, 0xCD, false, false⟩
  | .tagUint32 => ⟨0xFF, 0xCE, false, false⟩
  | .tagUint64 => ⟨0xFF, 0xCF, false, false⟩
  | .tagInt8 => ⟨0xFF, 0xD0, false, false⟩
  | .tagInt16 => ⟨0xFF, 0xD1, false, false⟩
  | .tagInt32 => ⟨0xFF, 0xD2, false, false⟩
  | .tagInt64 => ⟨0xFF, 0xD3, false, false⟩
  | .tagString _ => ⟨0xF0, 0xA0, false, false⟩

/-- The eighteen operation rows (R72). -/
def opRows : List TableRow :=
  [Instr.row .nop, Instr.row (.crcSeed 0), Instr.row (.crcByte 0), Instr.row .crcRead, Instr.row (.syncPut 0),
   Instr.row .msgLen, Instr.row (.msgKind 0), Instr.row (.msgVal 0), Instr.row (.msgSlen 0),
   Instr.row (.msgStrb 0 0), Instr.row (.bePack8 0), Instr.row (.bePack16 0), Instr.row (.bePack32 0),
   Instr.row (.bePack64 0), Instr.row (.beUnpack8 0), Instr.row (.beUnpack16 0), Instr.row (.beUnpack32 0),
   Instr.row (.beUnpack64 0)]

/-- The bits of an encoded instruction, numbered as the opcode table numbers them. -/
def Code.bits : Code → OpWord
  | .op w => w
  | .wire _ b => b.setWidth 80

/-! ## The host's view of one table word -/

/-- The role in which a byte is read when nothing says where in a frame it stands: a known tag is a tag;
otherwise the first header byte; otherwise a count byte; otherwise a CRC byte. `0xCE` is thus read as the
Uint32 tag, not as the CRC tag at offset 1, and `0x92` as the header, not as the count 2: the table's own
patterns overlap there, and only the offset tells them apart (R81). DESIGN CHOICE (log 11; safe: the
machine itself never uses it, only decodeTableWord and withFetchWord do). -/
def roleWithoutContext (b : Byte) : WireRole :=
  if (decodeTag b).isSome then .tag
  else if b = Config.hdr0 then .hdr0
  else if b.extractLsb' 4 4 = 0x9 then .count
  else .crcField

/-- The instruction the decoder reads from a table word of `nbits` bits: 80 for an operation word, 8 for
a wire byte (log 11). -/
def decodeTableWord (nbits w : Nat) : Option Instr :=
  if nbits = 80 then (decodeOp (BitVec.ofNat 80 w)).toOption
  else if nbits = 8 then
    (decodeWire (roleWithoutContext (BitVec.ofNat 8 w)) (BitVec.ofNat 8 w)).toOption
  else none

end Sys2Proof
end

