-- ==== Sys2Proof/Machine/State.lean ====
section
/-! DEFINITION. The state of one instance of the block (10_state.md R20 to R36), the values after reset
(70_reset_and_hazards.md R270), and the reasons a step can stop. -/

namespace Sys2Proof.Machine

/-- A staged Object (R27): four separate fields, so that nothing depends on storage overlap. -/
structure Slot where
  /-- The kind code, 4 bits (R28). -/
  kind : Nibble
  /-- The payload bit pattern of a scalar, zero-extended. -/
  val : BitVec 64
  /-- The wire length of a String. -/
  slen : Nibble
  /-- A String's octets, zero-filled. -/
  str : Vector Byte 15
deriving DecidableEq, Repr

/-- A slot of zeros. -/
def Slot.zero : Slot := { kind := 0, val := 0, slen := 0, str := Vector.replicate 15 0 }

/-- The staged message `msg` (R27): a length and fifteen slots. -/
structure Message where
  len : Nibble
  obj : Vector Slot 15
deriving DecidableEq, Repr

/-- A message of zeros. -/
def Message.zero : Message := { len := 0, obj := Vector.replicate 15 Slot.zero }

/-- What the result port holds after an operation (30_encoding.md R74). -/
structure Result where
  res : Port64
  flag : Bool
deriving DecidableEq, Repr

/-- The cause labels of a reject (60_exceptions.md R241): ghost values, neither state nor output. -/
inductive RejectCause where
  | hdr0 | hdr1 | count | tag | surplus | crc | body
deriving DecidableEq, Repr

/-- `RESET_JUNK` (R8, R270): one value for each register whose reset value the spec leaves open. -/
structure ResetJunk where
  remainingObjects : BitVec 9
  remainingBytes : BitVec 4
  crcHeader : Crc
  crcBody : Crc
  buf : Vector Byte 247
  msg : Message
deriving DecidableEq, Repr

/-- What the host does at a step boundary (00_scope.md R12, R17): it presents an operation word, or it
causes a `Reset`. The junk that a `Reset` leaves is an argument of the event (log 2). -/
inductive HostEvent where
  | op (w : OpWord)
  | reset (junk : ResetJunk)
deriving DecidableEq, Repr

/-- The staging buffer as data: the bytes that differ from what an unlisted address reads as, by strictly
rising address (`Memory.wf` in Ops.lean). -/
abbrev Memory := List Host.Cell

/-- The block's state: the registers of R20, each at the width of R7, and then the model's own fields. -/
structure State where
  /-- `len` (R21): the bytes of the current candidate already stored; the sequencing register (R32). -/
  len : BitVec 8
  /-- `remaining_objects` (R22): signed, two's complement. -/
  remainingObjects : BitVec 9
  /-- `remaining_bytes` (R23). -/
  remainingBytes : BitVec 4
  /-- `crc_header` (R24). -/
  crcHeader : Crc
  /-- `crc_body` (R25): the finished CRC of the body bytes so far. -/
  crcBody : Crc
  /-- `buf[0..246]` (R26). -/
  buf : Memory
  /-- `msg` (R27). -/
  msg : Message
  /-- `msg_valid` (R29). -/
  msgValid : Bool
  /-- `crc_acc` (R30). -/
  crcAcc : Crc
  /-- The result port (R12, R74): what the last operation drove, nothing since `Reset` (log 6). -/
  result : Option Result
  /-- Ghost (R241): the cause label, if the last operation ended in a reject (log 7). -/
  ghostReject : Option RejectCause
  /-- The model's own: what the host has yet to present, in order (log 4). -/
  issue : List HostEvent
  /-- The model's own: how many `STALE_READ` values have been drawn (log 3). -/
  draws : Nat
deriving DecidableEq, Repr

/-- The block right after `Reset` (R270): `len = 0`, `msg_valid = 0`, `crc_acc = 0`, nothing on the result
port. Every other register has no reset value in the spec (`RESET_JUNK`); here it is zero, and nothing is
listed in `buf`. DESIGN CHOICE (log 1; unsafe). -/
def State.reset : State where
  len := 0
  remainingObjects := 0
  remainingBytes := 0
  crcHeader := 0
  crcBody := 0
  buf := []
  msg := Message.zero
  msgValid := false
  crcAcc := 0
  result := none
  ghostReject := none
  issue := []
  draws := 0

/-- Why the machine stops. The block has no trap and no fatal condition (R16); the one fault is the
model's guard on the address space. -/
inductive Fault where
  /-- An access to `buf` at an address of 247 or above, which does not exist (20_memory.md R50, R58).
  Raised by `memWrite` and `memRead` only. Safe: the model stops; and no step reaches it (log 12). -/
  | outsideBuffer (address : Nat)
deriving DecidableEq, Repr

/-- Why a word has no meaning. -/
inductive Refusal where
  /-- Raised by `exec` for an instruction the model gives no meaning. Safe: the model stops. -/
  | notModelled (mnemonic : String)
  /-- Raised by `step` for an operation word that spells no operation, and by the indexed `MSG.*`
  operations for an index of 15 (R73, U4). Safe: the model stops where the spec promises nothing (log 9). -/
  | reservedWord (why : DecodeError)
deriving DecidableEq, Repr

/-- An outcome of this machine. -/
abbrev Out := Host.Outcome State Fault Refusal

end Sys2Proof.Machine
end

