-- ==== Sys2Proof/Machine/Ops.lean ====
section
/-! DEFINITION. The named operations over state: the staging buffer (20_memory.md), ending an operation on
the result port (30_encoding.md R74), the reject (60_exceptions.md R252), the `Reset` event
(70_reset_and_hazards.md R270), undefined reads (43_body_decode_msg.md R179), the staged message's slots,
and presenting a word at the port. -/

namespace Sys2Proof.Machine

/-! ## The staging buffer -/

/-- What an address with no cell reads as. The spec leaves it open (`RESET_JUNK`). DESIGN CHOICE
(log 8; unsafe). -/
def Memory.unlisted (_a : Nat) : Byte := 0

/-- The byte at an address. -/
def Memory.read : Memory → Nat → Byte
  | [], a => Memory.unlisted a
  | (k, v) :: rest, a => if k = a then v else Memory.read rest a

/-- The memory without a cell at `a`. -/
def Memory.erase (m : Memory) (a : Nat) : Memory := m.filter fun c => c.1 != a

/-- A cell put before the first cell of a higher address. -/
def Memory.insert (a : Nat) (b : Byte) : Memory → Memory
  | [] => [(a, b)]
  | (k, v) :: rest => if a < k then (a, b) :: (k, v) :: rest else (k, v) :: Memory.insert a b rest

/-- One byte written; the canonical form is kept. -/
def Memory.write (m : Memory) (a : Nat) (b : Byte) : Memory :=
  if b = Memory.unlisted a then Memory.erase m a else Memory.insert a b (Memory.erase m a)

/-- The canonical form: addresses strictly rising and inside the buffer, no cell that says what an
unlisted address reads as. -/
abbrev Memory.wf (m : Memory) : Prop :=
  m.Pairwise (fun c d => c.1 < d.1) ∧ ∀ c ∈ m, c.1 < Config.bufSize ∧ c.2 ≠ Memory.unlisted c.1

/-- Bytes written one after another from address `a` on. -/
def Memory.writeList (m : Memory) (a : Nat) : List Byte → Memory
  | [] => m
  | b :: bs => Memory.writeList (Memory.write m a b) (a + 1) bs

/-- The bytes `m[a..a+n)`, in order. -/
def Memory.slice (m : Memory) (a n : Nat) : List Byte := (List.range' a n).map (Memory.read m)

/-- `MemWrite(a, 1, b)` (00_scope.md R11), with the address space of R50. -/
def memWrite (s : State) (a : Nat) (b : Byte) : Out :=
  if a < Config.bufSize then .next { s with buf := Memory.write s.buf a b } else .fault (.outsideBuffer a)

/-- `MemRead(a, n)` (00_scope.md R11), defined only for `a + n ≤ 247`; the bytes go on to `k`. -/
def memRead (s : State) (a n : Nat) (k : List Byte → Out) : Out :=
  if a + n ≤ Config.bufSize then k (Memory.slice s.buf a n) else .fault (.outsideBuffer (a + n - 1))

/-- Go on from a next state; stop where the first part stopped. -/
def andThen (o : Out) (k : State → Out) : Out :=
  match o with
  | .next s => k s
  | .fault r => .fault r
  | .refused r => .refused r

/-! ## Ending an operation -/

/-- `return (res, flag)` (R11, R74): the result port is driven. -/
def State.finish (s : State) (res : Port64) (flag : Bool) : State :=
  { s with result := some { res := res, flag := flag }, ghostReject := none }

/-- The code of a cause label (R241). -/
def RejectCause.code : RejectCause → Nat
  | .hdr0 => 1
  | .hdr1 => 2
  | .count => 3
  | .tag => 4
  | .surplus => 5
  | .crc => 6
  | .body => 7

/-- Taking the block's one exceptional event, `raise Reject(cause)` (60_exceptions.md R252):
`len <- 0; msg_valid <- 0; return (0, 0)`. Nothing is saved and nothing else is cleared; there is no
handler, and no return from a reject exists (R253): the block is ready for the next operation at once. -/
def State.reject (s : State) (cause : RejectCause) : State :=
  { s with len := 0, msgValid := false, result := some { res := 0, flag := false }, ghostReject := some cause }

/-! ## The `Reset` event -/

/-- The `Reset` event (R270): `len = 0`, `msg_valid = 0`, `crc_acc = 0`, nothing on the result port,
every other register at the junk of this `Reset`. -/
def performReset (junk : ResetJunk) (s : State) : Out :=
  .next { s with
    len := 0
    remainingObjects := junk.remainingObjects
    remainingBytes := junk.remainingBytes
    crcHeader := junk.crcHeader
    crcBody := junk.crcBody
    buf := Memory.writeList [] 0 junk.buf.toList
    msg := junk.msg
    msgValid := false
    crcAcc := 0
    result := none
    ghostReject := none }

/-- The host presents nothing: the block waits, unchanged (R257, R261). DESIGN CHOICE (log 5; safe). -/
def idle (s : State) : Out := .next s

/-! ## The staged message -/

/-- `msg.obj[i]`. -/
def Message.slot (m : Message) (i : Nat) : Slot := m.obj.toList.getD i Slot.zero

/-- `msg.obj[k] <- o`. -/
def Message.setSlot (m : Message) (k : Nat) (o : Slot) : Message := { m with obj := m.obj.setIfInBounds k o }

/-- The Objects below `msg.len`, the message proper (R27: "positions `[len, 15)` are ignored"). -/
def Message.objects (m : Message) : List Slot := m.obj.toList.take m.len.toNat

/-- The end of a `MSG.*` read (R179): the value if the read is defined, else `STALE_READ`, drawn afresh
(log 3); `flag = 0` either way, and no register changes. -/
def State.readStaged (s : State) (defined : Bool) (value : Port64) : State :=
  if defined then s.finish value false
  else { s with draws := s.draws + 1 }.finish (Config.staleRead s.draws) false

/-- Whether an indexed read is defined (R179): `msg_valid = 1` and `i < msg.len`. -/
def State.slotDefined (s : State) (i : Nibble) : Bool := s.msgValid && decide (i.toNat < s.msg.len.toNat)

/-! ## Presenting at the port -/

/-- The host presents an operation word next (log 4). -/
def State.present (s : State) (w : OpWord) : State := { s with issue := .op w :: s.issue }

/-- The synchronizer stands where a byte of this role is expected (20_memory.md R51). For a tag it stands
at offset 7 with two objects to come. Only withFetchWord uses it (log 11). -/
def State.atRole (s : State) : WireRole → State
  | .hdr0 => { s with len := 0 }
  | .hdr1 => { s with len := 1 }
  | .crcField => { s with len := 2 }
  | .count => { s with len := 6 }
  | .tag => { s with len := 7, remainingObjects := 2, remainingBytes := 0 }

/-- The host sends a wire byte next, and the synchronizer is where the byte has its context-free role:
the operation word that carries the byte is `SYNC.PUT` (log 10, log 11). -/
def State.presentWire (s : State) (b : Byte) : State :=
  (s.atRole (roleWithoutContext b)).present (opWordArg 0x20 b)

end Sys2Proof.Machine
end

