-- ==== Sys2Proof/Machine/Operands.lean ====
section
/-! DEFINITION. Operand forms and conversions: the big-endian functions (41_be_datapath.md R120, R121), lane
vectors (30_encoding.md R74), `PAYLEN` and `KIND_OF_TAG` (30_encoding.md R80, R81), kind codes
(10_state.md R28), and `DecodeObject` (43_body_decode_msg.md R171, R172). -/

namespace Sys2Proof.Machine

/-- `be_pack_n(v)` (R120): byte `k` is `v[8(n−1−k)+7 : 8(n−1−k)]`. -/
def bePack {w : Nat} (n : Nat) (v : BitVec w) : List Byte :=
  (List.range n).map fun k => v.extractLsb' (8 * (n - 1 - k)) 8

/-- `be_unpack_n(s)` at width `w = 8n` (R121): from 0, `acc <- (acc << 8) OR byte` for each byte in order. -/
def beUnpack (w : Nat) (s : List Byte) : BitVec w :=
  s.foldl (fun acc b => (acc <<< 8) ||| b.setWidth w) 0

/-- Lanes 0 to `n−1` of an operand (R74): lane `k` is bits `8k+7 : 8k`. -/
def lanes {w : Nat} (n : Nat) (arg : BitVec w) : List Byte :=
  (List.range n).map fun k => arg.extractLsb' (8 * k) 8

/-- A byte sequence as a lane vector (R74): byte `k` in lane `k`, the other lanes zero. -/
def ofLanes : List Byte → Port64
  | [] => 0
  | b :: bs => (ofLanes bs <<< 8) ||| b.setWidth 64

/-- The code of a kind (R28). -/
def kindCode : Kind → Nibble
  | .untyped => 0
  | .bool => 1
  | .uint8 => 2
  | .uint16 => 3
  | .uint32 => 4
  | .uint64 => 5
  | .int8 => 6
  | .int16 => 7
  | .int32 => 8
  | .int64 => 9
  | .float => 10
  | .double => 11
  | .string => 12

/-- `PAYLEN(tag)` (R80). -/
def payLen : Tag → Nat
  | .boolFalse => 0
  | .boolTrue => 0
  | .float => 4
  | .double => 8
  | .uint8 => 1
  | .uint16 => 2
  | .uint32 => 4
  | .uint64 => 8
  | .int8 => 1
  | .int16 => 2
  | .int32 => 4
  | .int64 => 8
  | .string l => l.toNat

/-- `KIND_OF_TAG(tag)` (R81). -/
def kindOfTag : Tag → Kind
  | .boolFalse => .bool
  | .boolTrue => .bool
  | .float => .float
  | .double => .double
  | .uint8 => .uint8
  | .uint16 => .uint16
  | .uint32 => .uint32
  | .uint64 => .uint64
  | .int8 => .int8
  | .int16 => .int16
  | .int32 => .int32
  | .int64 => .int64
  | .string _ => .string

/-- The slot of a scalar (R171): all four fields written, the String fields zero. -/
def scalarSlot (k : Kind) (v : Port64) : Slot :=
  { kind := kindCode k, val := v, slen := 0, str := Vector.replicate 15 0 }

/-- The slot of a String (R172): the octets verbatim, zero above the wire length. -/
def stringSlot (l : Nibble) (octets : List Byte) : Slot :=
  { kind := kindCode .string, val := 0, slen := l, str := Vector.ofFn fun j => octets.getD j.val 0 }

/-- `DecodeObject(t, payload)` (R171): the slot written for a tag and its payload bytes. -/
def decodeObject (t : Tag) (payload : List Byte) : Slot :=
  match t with
  | .boolFalse => scalarSlot (kindOfTag t) 0
  | .boolTrue => scalarSlot (kindOfTag t) 1
  | .float => scalarSlot (kindOfTag t) ((beUnpack 32 payload).setWidth 64)
  | .double => scalarSlot (kindOfTag t) (beUnpack 64 payload)
  | .uint8 => scalarSlot (kindOfTag t) ((beUnpack 8 payload).setWidth 64)
  | .uint16 => scalarSlot (kindOfTag t) ((beUnpack 16 payload).setWidth 64)
  | .uint32 => scalarSlot (kindOfTag t) ((beUnpack 32 payload).setWidth 64)
  | .uint64 => scalarSlot (kindOfTag t) (beUnpack 64 payload)
  | .int8 => scalarSlot (kindOfTag t) ((beUnpack 8 payload).setWidth 64)
  | .int16 => scalarSlot (kindOfTag t) ((beUnpack 16 payload).setWidth 64)
  | .int32 => scalarSlot (kindOfTag t) ((beUnpack 32 payload).setWidth 64)
  | .int64 => scalarSlot (kindOfTag t) (beUnpack 64 payload)
  | .string l => stringSlot l payload

end Sys2Proof.Machine
end

