-- ==== Sys2Proof/Machine/Flags.lean ====
section
/-! DEFINITION. The block's flags: the ready flag of `SYNC.PUT` (10_state.md R31, 42_sync_put.md R140), the
validity mark that follows it (10_state.md R29), and the two tests that decide them, the completion test
(42_sync_put.md R147) and the CRC comparison (R148). No other flag exists (R31). -/

namespace Sys2Proof.Machine

/-- The completion test P2 (R147): `len ≥ 7` and both counters zero, on the values after the arm. -/
def State.complete (s : State) : Bool :=
  decide (7 ≤ s.len.toNat) && s.remainingObjects == 0 && s.remainingBytes == 0

/-- The CRC comparison P3 (R148). -/
def State.crcMatches (s : State) : Bool := s.crcHeader == s.crcBody

/-- A `SYNC.PUT` that stored its byte and goes on: `msg_valid <- 0; return (0, 0)` (R140, P2). -/
def State.endGrowing (s : State) : State := { s with msgValid := false }.finish 0 false

/-- A `SYNC.PUT` that ends ready: `len <- 0; msg_valid <- 1; return (0, 1)` (R149). -/
def State.endReady (s : State) : State := { s with len := 0, msgValid := true }.finish 0 true

end Sys2Proof.Machine
end

