-- ==== Sys2Proof/Machine/BigEndian.lean ====
section
/-! DEFINITION. Unit U3, the big-endian datapath: the eight operations of 41_be_datapath.md R126 to R133.
They read and write no register; `flag` is always 0. -/

namespace Sys2Proof.Machine

/-- `BE.PACKn` (R126 to R129): the wire bytes of the value in lanes 0 to `n−1` of `res`. -/
def State.bePackOp {w : Nat} (s : State) (n : Nat) (v : BitVec w) : State := s.finish (ofLanes (bePack n v)) false

/-- `BE.UNPACKn` (R130 to R133) at width `w = 8n`: the value of the wire bytes in lanes 0 to `n−1`,
zero-extended. -/
def State.beUnpackOp {w : Nat} (s : State) (n : Nat) (arg : BitVec w) : State :=
  s.finish ((beUnpack w (lanes n arg)).setWidth 64) false

/-- `BE.PACK8 v` (R126). -/
def execBePack8 (v : BitVec 8) (s : State) : Out := .next (s.bePackOp 1 v)

/-- `BE.PACK16 v` (R127). -/
def execBePack16 (v : BitVec 16) (s : State) : Out := .next (s.bePackOp 2 v)

/-- `BE.PACK32 v` (R128). -/
def execBePack32 (v : BitVec 32) (s : State) : Out := .next (s.bePackOp 4 v)

/-- `BE.PACK64 v` (R129). -/
def execBePack64 (v : BitVec 64) (s : State) : Out := .next (s.bePackOp 8 v)

/-- `BE.UNPACK8 s` (R130). -/
def execBeUnpack8 (arg : BitVec 8) (s : State) : Out := .next (s.beUnpackOp 1 arg)

/-- `BE.UNPACK16 s` (R131). -/
def execBeUnpack16 (arg : BitVec 16) (s : State) : Out := .next (s.beUnpackOp 2 arg)

/-- `BE.UNPACK32 s` (R132). -/
def execBeUnpack32 (arg : BitVec 32) (s : State) : Out := .next (s.beUnpackOp 4 arg)

/-- `BE.UNPACK64 s` (R133). -/
def execBeUnpack64 (arg : BitVec 64) (s : State) : Out := .next (s.beUnpackOp 8 arg)

end Sys2Proof.Machine
end

