-- ==== Sys2Proof/Machine/Msg.lean ====
section
/-! DEFINITION. Unit U2's reads of the staged message: `MSG.LEN`, `MSG.KIND`, `MSG.VAL`, `MSG.SLEN`,
`MSG.STRB` (43_body_decode_msg.md R174 to R179). They change no register. -/

namespace Sys2Proof.Machine

/-- `MSG.LEN` (R174). -/
def execMsgLen (s : State) : Out := .next (s.readStaged s.msgValid (s.msg.len.setWidth 64))

/-- An indexed read of slot `i` (R175 to R178); `i = 15` is a reserved word (R73, log 9). -/
def readSlot (i : Nibble) (field : Slot → Port64) (s : State) : Out :=
  if slotIndexOk i then .next (s.readStaged (s.slotDefined i) (field (s.msg.slot i.toNat)))
  else .refused (.reservedWord .reservedSlotIndex)

/-- `MSG.KIND i` (R175). -/
def execMsgKind (i : Nibble) (s : State) : Out := readSlot i (fun o => o.kind.setWidth 64) s

/-- `MSG.VAL i` (R176). -/
def execMsgVal (i : Nibble) (s : State) : Out := readSlot i (fun o => o.val) s

/-- `MSG.SLEN i` (R177). -/
def execMsgSlen (i : Nibble) (s : State) : Out := readSlot i (fun o => o.slen.setWidth 64) s

/-- `MSG.STRB i, j` (R178); `j = 15` is a reserved word (R73, log 9). -/
def execMsgStrb (i j : Nibble) (s : State) : Out :=
  if byteIndexOk j then readSlot i (fun o => (o.str.toList.getD j.toNat 0).setWidth 64) s
  else .refused (.reservedWord .reservedByteIndex)

end Sys2Proof.Machine
end

