-- ==== Sys2Proof/Machine/System.lean ====
section
/-! DEFINITION. The one system operation, `NOP` (45_system.md R230). The block has no other (R231). -/

namespace Sys2Proof.Machine

/-- `NOP` (R230): `return (0, 0)`; no register changes, `msg_valid` included. -/
def execNop (s : State) : Out := .next (s.finish 0 false)

end Sys2Proof.Machine
end

