-- ==== Sys2Proof/Machine/Crc.lean ====
section
/-! DEFINITION. Unit U1, the CRC32 checksum engine (40_crc.md): the functions of R101, R103, R110 and the
operations `CRC.SEED`, `CRC.BYTE`, `CRC.READ` (R105 to R107). -/

namespace Sys2Proof.Machine

/-- One bit of the raw step (R101, line 2): shift right, XOR the polynomial if the bit shifted out was 1. -/
def crcBit (r : Crc) : Crc := if r.getLsbD 0 then (r >>> 1) ^^^ Config.crcPoly else r >>> 1

/-- `n` bit steps. -/
def crcBits : Nat → Crc → Crc
  | 0, r => r
  | n + 1, r => crcBits n (crcBit r)

/-- `crc_raw_step(r, b)` (R101): the byte enters at the low end, then eight bit steps. -/
def crcRawStep (r : Crc) (b : Byte) : Crc := crcBits 8 (r ^^^ b.setWidth 32)

/-- `CRC32B(seed, bytes, length)` (R103). -/
def crc32b (seed : Crc) (bytes : List Byte) : Crc :=
  (bytes.foldl crcRawStep (seed ^^^ Config.crcXor)) ^^^ Config.crcXor

/-- `crc_feed(c, b) = ~crc_raw_step(~c, b)` (R110). -/
def crcFeed (c : Crc) (b : Byte) : Crc := ~~~ crcRawStep (~~~ c) b

/-- `CRC.SEED s` (R105). -/
def execCrcSeed (seed : Crc) (s : State) : Out := .next ({ s with crcAcc := seed }.finish 0 false)

/-- `CRC.BYTE b` (R106). -/
def execCrcByte (b : Byte) (s : State) : Out := .next ({ s with crcAcc := crcFeed s.crcAcc b }.finish 0 false)

/-- `CRC.READ` (R107). -/
def execCrcRead (s : State) : Out := .next (s.finish (s.crcAcc.setWidth 64) false)

end Sys2Proof.Machine
end

