-- ==== Sys2Proof/Machine/Sync.lean ====
section
/-! DEFINITION. Unit U2, the frame synchronizer: `SYNC.PUT` (42_sync_put.md R140 to R149) and the body parser
it runs on completion (43_body_decode_msg.md R170, R173). -/

namespace Sys2Proof.Machine

/-! ## The body parser (R170) -/

/-- Line 4 and 5 of R170 for the `n` objects still to come, `k` the slot of the next one and `rest` the
frame bytes from the running position on. A failure leaves the slots written so far (R173). -/
def parseObjects : Nat → Nat → List Byte → Message → Message × Bool
  | 0, _, rest, m => (m, rest.isEmpty)
  | _ + 1, _, [], m => (m, false)
  | n + 1, k, t :: rest, m =>
    match decodeTag t with
    | none => (m, false)
    | some tag =>
      if rest.length < payLen tag then (m, false)
      else parseObjects n (k + 1) (rest.drop (payLen tag))
        (m.setSlot k (decodeObject tag (rest.take (payLen tag))))

/-- `byte − 0x90` as a signed integer (R79, R145, R170). -/
def countOf (b : Byte) : Int := (b.toNat : Int) - (Config.lenBase.toNat : Int)

/-- `BodyParse(flen)` (R170) on the bytes `buf[0..flen)`: the message as written, and whether it parsed.
It does not look at the first six bytes. A frame shorter than seven bytes, which R170 does not take,
fails (log 15). -/
def bodyParse (frame : List Byte) (m : Message) : Message × Bool :=
  match frame.drop 6 with
  | [] => (m, false)
  | b :: rest =>
    if countOf b > 15 then (m, false)
    else if countOf b < 0 then (m, false)
    else parseObjects (countOf b).toNat 0 rest { m with len := BitVec.ofInt 4 (countOf b) }

/-! ## The arms (R141 to R146) -/

/-- What an arm leaves: the byte is to be stored, or a reject was raised. The state holds the registers
the arm wrote before. -/
inductive ArmEnd where
  | store (s : State)
  | raise (cause : RejectCause) (s : State)
deriving DecidableEq, Repr

/-- P0, the over-size guard (R141). -/
def overSizeGuard (s : State) : State := if Config.bufSize ≤ s.len.toNat then { s with len := 0 } else s

/-- Arm HDR0 (R142). -/
def armHdr0 (b : Byte) (s : State) : ArmEnd := if b = Config.hdr0 then .store s else .raise .hdr0 s

/-- Arm HDR1 (R143). -/
def armHdr1 (b : Byte) (s : State) : ArmEnd :=
  if b = Config.hdr1 then .store { s with crcHeader := 0, crcBody := 0 } else .raise .hdr1 s

/-- Arm CRCFIELD (R144). -/
def armCrcField (b : Byte) (s : State) : ArmEnd :=
  .store { s with crcHeader := (s.crcHeader <<< 8) ||| b.setWidth 32 }

/-- Arm COUNT (R145), its lines in order: the counter is written before the test. -/
def armCount (b : Byte) (s : State) : ArmEnd :=
  let s := { s with remainingObjects := BitVec.ofInt 9 (countOf b) }
  if s.remainingObjects.toInt > 15 then .raise .count s
  else .store { s with remainingBytes := 0, crcBody := crcFeed s.crcBody b }

/-- Arm BODY (R146): payload byte, tag byte, or surplus byte. On an unknown tag the decrement has already
happened. -/
def armBody (b : Byte) (s : State) : ArmEnd :=
  if s.remainingBytes.toNat > 0 then
    .store { s with remainingBytes := s.remainingBytes - 1, crcBody := crcFeed s.crcBody b }
  else if s.remainingObjects.toInt > 0 then
    let s := { s with remainingObjects := s.remainingObjects - 1 }
    match decodeTag b with
    | none => .raise .tag s
    | some t => .store { s with remainingBytes := BitVec.ofNat 4 (payLen t), crcBody := crcFeed s.crcBody b }
  else .raise .surplus s

/-- P1, the dispatch on `len` as the guard left it (R140). -/
def dispatchArm (b : Byte) (s : State) : ArmEnd :=
  if s.len.toNat = 0 then armHdr0 b s
  else if s.len.toNat = 1 then armHdr1 b s
  else if s.len.toNat ≤ 5 then armCrcField b s
  else if s.len.toNat = 6 then armCount b s
  else armBody b s

/-- The end of an arm that stores: `MemWrite(len, 1, b); len <- len + 1` (R142 to R146). -/
def storeByte (b : Byte) (s : State) : Out :=
  andThen (memWrite s s.len.toNat b) fun s => .next { s with len := s.len + 1 }

/-! ## Completion (R147 to R149) -/

/-- P4, the body parse and ready (R149). -/
def finishFrame (s : State) : Out :=
  memRead s 0 s.len.toNat fun frame =>
    match bodyParse frame s.msg with
    | (m, true) => .next { s with msg := m }.endReady
    | (m, false) => .next ({ s with msg := m }.reject .body)

/-- P2 to P4 (R147 to R149), after the byte is stored. -/
def afterStore (s : State) : Out :=
  if s.complete then
    if s.crcMatches then finishFrame s else .next (s.reject .crc)
  else .next s.endGrowing

/-- The synchronizer's step on a wire byte (R140), shared by `SYNC.PUT` and the wire rows of the table. -/
def syncStep (b : Byte) (s : State) : Out :=
  match dispatchArm b (overSizeGuard s) with
  | .raise cause s => .next (s.reject cause)
  | .store s => andThen (storeByte b s) afterStore

/-- `SYNC.PUT b` (R140). -/
def execSyncPut (b : Byte) (s : State) : Out := syncStep b s

end Sys2Proof.Machine
end

