-- ==== Sys2Proof/Machine/Wire.lean ====
section
/-! DEFINITION. The wire-format rows of spec/opcode_table.json (30_encoding.md R77 to R81). A wire byte reaches
the block through `SYNC.PUT` alone, and the synchronizer takes it by its place in the frame, never by its
value (R81): so what a wire row does is the synchronizer's step on the row's byte. In the place the row names
the byte is stored, with the effect of that place's arm; in any other place it is judged as that place says
(log 10). -/

namespace Sys2Proof.Machine

/-- `WIRE.HDR0` (R77, R142): the header byte `0x92`, frame offset 0. -/
def execWireHdr0 (s : State) : Out := syncStep Config.hdr0 s

/-- `WIRE.HDR1` (R77, R143): the CRC tag `0xCE`, frame offset 1. -/
def execWireHdr1 (s : State) : Out := syncStep Config.hdr1 s

/-- `WIRE.CRC` (R78, R144): a byte of the CRC field, frame offsets 2 to 5. -/
def execWireCrc (c : Byte) (s : State) : Out := syncStep c s

/-- `WIRE.COUNT` (R79, R145): the count byte `0x90 + N`, frame offset 6. -/
def execWireCount (n : Nibble) (s : State) : Out := syncStep (countByte n) s

/-- `TAG.BOOL_FALSE` (R80, R146): Bool false, no payload. -/
def execTagBoolFalse (s : State) : Out := syncStep Tag.boolFalse.byte s

/-- `TAG.BOOL_TRUE` (R80, R146): Bool true, no payload. -/
def execTagBoolTrue (s : State) : Out := syncStep Tag.boolTrue.byte s

/-- `TAG.FLOAT` (R80, R146): Float, four payload bytes. -/
def execTagFloat (s : State) : Out := syncStep Tag.float.byte s

/-- `TAG.DOUBLE` (R80, R146): Double, eight payload bytes. -/
def execTagDouble (s : State) : Out := syncStep Tag.double.byte s

/-- `TAG.UINT8` (R80, R146): Uint8, one payload byte. -/
def execTagUint8 (s : State) : Out := syncStep Tag.uint8.byte s

/-- `TAG.UINT16` (R80, R146): Uint16, two payload bytes. -/
def execTagUint16 (s : State) : Out := syncStep Tag.uint16.byte s

/-- `TAG.UINT32` (R80, R146): Uint32, four payload bytes. -/
def execTagUint32 (s : State) : Out := syncStep Tag.uint32.byte s

/-- `TAG.UINT64` (R80, R146): Uint64, eight payload bytes. -/
def execTagUint64 (s : State) : Out := syncStep Tag.uint64.byte s

/-- `TAG.INT8` (R80, R146): Int8, one payload byte. -/
def execTagInt8 (s : State) : Out := syncStep Tag.int8.byte s

/-- `TAG.INT16` (R80, R146): Int16, two payload bytes. -/
def execTagInt16 (s : State) : Out := syncStep Tag.int16.byte s

/-- `TAG.INT32` (R80, R146): Int32, four payload bytes. -/
def execTagInt32 (s : State) : Out := syncStep Tag.int32.byte s

/-- `TAG.INT64` (R80, R146): Int64, eight payload bytes. -/
def execTagInt64 (s : State) : Out := syncStep Tag.int64.byte s

/-- `TAG.STRING` (R80, R146): a String of `L` payload bytes, tag `0xA0 + L`. -/
def execTagString (l : Nibble) (s : State) : Out := syncStep (Tag.string l).byte s

end Sys2Proof.Machine
end

