-- ==== Sys2Proof/Machine/Dispatch.lean ====
section
/-! DEFINITION. One arm per instruction: a direct call of its meaning. -/

namespace Sys2Proof.Machine

def exec (i : Instr) (s : State) : Host.Outcome State Fault Refusal :=
  match i with
  | .nop => Sys2Proof.Machine.execNop s
  | .crcSeed seed => Sys2Proof.Machine.execCrcSeed seed s
  | .crcByte b => Sys2Proof.Machine.execCrcByte b s
  | .crcRead => Sys2Proof.Machine.execCrcRead s
  | .syncPut b => Sys2Proof.Machine.execSyncPut b s
  | .msgLen => Sys2Proof.Machine.execMsgLen s
  | .msgKind k => Sys2Proof.Machine.execMsgKind k s
  | .msgVal k => Sys2Proof.Machine.execMsgVal k s
  | .msgSlen k => Sys2Proof.Machine.execMsgSlen k s
  | .msgStrb k j => Sys2Proof.Machine.execMsgStrb k j s
  | .bePack8 v => Sys2Proof.Machine.execBePack8 v s
  | .bePack16 v => Sys2Proof.Machine.execBePack16 v s
  | .bePack32 v => Sys2Proof.Machine.execBePack32 v s
  | .bePack64 v => Sys2Proof.Machine.execBePack64 v s
  | .beUnpack8 lanes => Sys2Proof.Machine.execBeUnpack8 lanes s
  | .beUnpack16 lanes => Sys2Proof.Machine.execBeUnpack16 lanes s
  | .beUnpack32 lanes => Sys2Proof.Machine.execBeUnpack32 lanes s
  | .beUnpack64 lanes => Sys2Proof.Machine.execBeUnpack64 lanes s
  | .wireHdr0 => Sys2Proof.Machine.execWireHdr0 s
  | .wireHdr1 => Sys2Proof.Machine.execWireHdr1 s
  | .wireCrc c => Sys2Proof.Machine.execWireCrc c s
  | .wireCount n => Sys2Proof.Machine.execWireCount n s
  | .tagBoolFalse => Sys2Proof.Machine.execTagBoolFalse s
  | .tagBoolTrue => Sys2Proof.Machine.execTagBoolTrue s
  | .tagFloat => Sys2Proof.Machine.execTagFloat s
  | .tagDouble => Sys2Proof.Machine.execTagDouble s
  | .tagUint8 => Sys2Proof.Machine.execTagUint8 s
  | .tagUint16 => Sys2Proof.Machine.execTagUint16 s
  | .tagUint32 => Sys2Proof.Machine.execTagUint32 s
  | .tagUint64 => Sys2Proof.Machine.execTagUint64 s
  | .tagInt8 => Sys2Proof.Machine.execTagInt8 s
  | .tagInt16 => Sys2Proof.Machine.execTagInt16 s
  | .tagInt32 => Sys2Proof.Machine.execTagInt32 s
  | .tagInt64 => Sys2Proof.Machine.execTagInt64 s
  | .tagString l => Sys2Proof.Machine.execTagString l s

end Sys2Proof.Machine
end

