-- ==== Sys2Proof/Machine/Step.lean ====
section
/-! DEFINITION. A step of the machine (00_scope.md R12): one operation or one `Reset` event, as the host presents
it; and the host's withFetchWord. -/

namespace Sys2Proof.Machine

/-- The operation an operation word spells is performed; a reserved word is refused (R73, log 9). -/
def runWord (w : OpWord) (s : State) : Out :=
  match decodeOp w with
  | .ok i => exec i s
  | .error why => .refused (.reservedWord why)

/-- One step: the next thing the host presents is taken from the port and performed (R12, R17). -/
def step (s : State) : Host.Outcome State Fault Refusal :=
  match s.issue with
  | [] => idle s
  | .reset junk :: rest => performReset junk { s with issue := rest }
  | .op w :: rest => runWord w { s with issue := rest }

/-- The state in which the next step runs a table word: an operation word is presented at the port; a wire
byte is presented in a `SYNC.PUT`, with the synchronizer where the byte has its role (log 4, log 11). -/
def State.withFetchWord (s : State) (nbits w : Nat) : State :=
  if nbits = 8 then s.presentWire (BitVec.ofNat 8 w) else s.present (BitVec.ofNat 80 w)

end Sys2Proof.Machine
end

