-- ==== Sys2Proof/Machine/Frame.lean ====
section
/-! DEFINITION. The one-shot reference functions (44_frame_reference.md R200 to R203), pure and without hardware
state: abstract Messages, sizes, `FRAME_ENCODE`, `FRAME_DECODE`. No operation of the block computes them;
what the synchronizer is for is said through them. -/

namespace Sys2Proof.Machine

/-- The value fits the scalar's width of `bytes` bytes and the String fields are zero (R200). -/
def Slot.scalarOk (o : Slot) (bytes : Nat) : Bool :=
  decide (o.val.toNat < 2 ^ (8 * bytes)) && o.slen == 0 && o.str == Vector.replicate 15 0

/-- The String fields agree (R200): `val = 0`, zero above `slen`. -/
def Slot.stringOk (o : Slot) : Bool :=
  o.val == 0 && (o.str.toList.drop o.slen.toNat).all (· == 0)

/-- An abstract Object (R200): filled as the table of 43_body_decode_msg.md R171 fills a slot. -/
def Slot.legal (o : Slot) : Bool :=
  match o.kind.toNat with
  | 1 => o.scalarOk 1 && decide (o.val.toNat ≤ 1)
  | 2 => o.scalarOk 1
  | 3 => o.scalarOk 2
  | 4 => o.scalarOk 4
  | 5 => o.scalarOk 8
  | 6 => o.scalarOk 1
  | 7 => o.scalarOk 2
  | 8 => o.scalarOk 4
  | 9 => o.scalarOk 8
  | 10 => o.scalarOk 4
  | 11 => o.scalarOk 8
  | 12 => o.stringOk
  | _ => false

/-- An abstract Message (R200): 0 to 15 abstract Objects. -/
def legalMessage (m : List Slot) : Bool := decide (m.length ≤ 15) && m.all Slot.legal

/-- `obj_size` (R201), for an abstract Object. -/
def objSize (o : Slot) : Nat :=
  match o.kind.toNat with
  | 1 => 1
  | 2 => 2
  | 3 => 3
  | 4 => 5
  | 5 => 9
  | 6 => 2
  | 7 => 3
  | 8 => 5
  | 9 => 9
  | 10 => 5
  | 11 => 9
  | 12 => 1 + o.slen.toNat
  | _ => 0

/-- `msg_size(m) = 7 + Σ obj_size` (R201). -/
def msgSize (m : List Slot) : Nat := 7 + (m.map objSize).sum

/-- `EncodeObject` (R202). A slot that is no abstract Object for its kind code has no encoding; nothing is
emitted for it (log 15). -/
def encodeObject (o : Slot) : List Byte :=
  match o.kind.toNat with
  | 1 => if o.val = 0 then [Tag.boolFalse.byte] else [Tag.boolTrue.byte]
  | 2 => Tag.uint8.byte :: bePack 1 (o.val.setWidth 8)
  | 3 => Tag.uint16.byte :: bePack 2 (o.val.setWidth 16)
  | 4 => Tag.uint32.byte :: bePack 4 (o.val.setWidth 32)
  | 5 => Tag.uint64.byte :: bePack 8 o.val
  | 6 => Tag.int8.byte :: bePack 1 (o.val.setWidth 8)
  | 7 => Tag.int16.byte :: bePack 2 (o.val.setWidth 16)
  | 8 => Tag.int32.byte :: bePack 4 (o.val.setWidth 32)
  | 9 => Tag.int64.byte :: bePack 8 o.val
  | 10 => Tag.float.byte :: bePack 4 (o.val.setWidth 32)
  | 11 => Tag.double.byte :: bePack 8 o.val
  | 12 => (Tag.string o.slen).byte :: o.str.toList.take o.slen.toNat
  | _ => []

/-- The body of a Message (R202, lines 1 and 2). -/
def frameBody (m : List Slot) : List Byte := countByte (BitVec.ofNat 4 m.length) :: m.flatMap encodeObject

/-- `FRAME_ENCODE(m)` (R202). -/
def frameEncode (m : List Slot) : List Byte :=
  Config.hdr0 :: Config.hdr1 :: bePack 4 (crc32b 0 (frameBody m)) ++ frameBody m

/-- `FRAME_DECODE(F)` (R203), the five checks in order; the Message is the fresh one's Objects. -/
def frameDecode (f : List Byte) : Option (List Slot) :=
  if f.length < Config.minMsgLen ∨ Config.bufSize < f.length then none
  else if f.getD 0 0 ≠ Config.hdr0 then none
  else if f.getD 1 0 ≠ Config.hdr1 then none
  else if beUnpack 32 ((f.drop 2).take 4) ≠ crc32b 0 (f.drop 6) then none
  else match bodyParse f Message.zero with
    | (m, true) => some m.objects
    | (_, false) => none

/-- The logical length of a String in the software's NUL-terminated view (43_body_decode_msg.md R180):
"the position of the first NUL within the 16-byte storage", the sixteenth byte being an implied zero
(R172). -/
def Slot.logicalLen (o : Slot) : Nat := o.str.toList.findIdx (· == 0)

end Sys2Proof.Machine
end

