-- ==== Sys2Proof/Safety.lean ====
section
/-! DEFINITION. What a good state and a good run are, in the terms the claims use: the invariant of the
synchronizer (10_state.md R36), runs of operations, and what a byte stream makes the block report. -/

namespace Sys2Proof.Machine

/-! ## Runs -/

/-- A sequence of operations, one after another (00_scope.md R12). -/
def runOps : List Instr → State → Out
  | [], s => .next s
  | i :: is, s => andThen (exec i s) (runOps is)

/-- What the host sees of one `SYNC.PUT`, and the ghost cause label (R241). -/
structure PutReport where
  flag : Bool
  cause : Option RejectCause
deriving DecidableEq, Repr

/-- The report the last operation left. -/
def State.report (s : State) : PutReport :=
  { flag := (s.result.map Result.flag).getD false, cause := s.ghostReject }

/-- `SYNC.FEED` (R75): the bytes given to `SYNC.PUT` in order, with the report of each. -/
def feed : List Byte → State → Option (List PutReport × State)
  | [], s => some ([], s)
  | b :: bs, s =>
    match exec (.syncPut b) s with
    | .next t => (feed bs t).map fun r => (t.report :: r.1, r.2)
    | .fault _ => none
    | .refused _ => none

/-- The flags of a stream that is ready on its last byte and on no other. -/
def readyOnLast (n : Nat) : List Bool := List.replicate (n - 1) false ++ [true]

/-- The byte an instruction gives the synchronizer, if it gives one: `SYNC.PUT` and the wire rows (log 10). -/
def putByte : Instr → Option Byte
  | .syncPut b => some b
  | i =>
    match encode i with
    | .wire _ b => some b
    | .op _ => none

/-- The byte an instruction feeds the CRC engine, if it feeds one (R106). -/
def engineByte : Instr → Option Byte
  | .crcByte b => some b
  | _ => none

/-- The synchronizer's registers, the buffer and the staged message (unit U2 of R20). -/
structure SyncPart where
  len : BitVec 8
  remainingObjects : BitVec 9
  remainingBytes : BitVec 4
  crcHeader : Crc
  crcBody : Crc
  buf : Memory
  msg : Message
  msgValid : Bool
deriving DecidableEq, Repr

/-- Unit U2's part of a state. -/
def State.syncPart (s : State) : SyncPart :=
  { len := s.len, remainingObjects := s.remainingObjects, remainingBytes := s.remainingBytes,
    crcHeader := s.crcHeader, crcBody := s.crcBody, buf := s.buf, msg := s.msg, msgValid := s.msgValid }

/-! ## The invariant between operations -/

/-- The counters after the object bytes of a candidate (R146), from `objs` objects and `bytes` payload bytes
to come; `none` if a tag is unknown or a byte is surplus. -/
def countersAfter : List Byte → Nat → Nat → Option (Nat × Nat)
  | [], objs, bytes => some (objs, bytes)
  | _ :: bs, objs, bytes + 1 => countersAfter bs objs bytes
  | b :: bs, objs + 1, 0 => (decodeTag b).bind fun t => countersAfter bs objs (payLen t)
  | _ :: _, 0, 0 => none

/-- `N = buf[6] − 0x90` (R36 (d)). -/
def State.declared (s : State) : Int := countOf (Memory.read s.buf 6)

/-- What holds between operations (R36), with what it takes to be kept by every step: how the registers
follow from the stored bytes (R24, R25, R26), and that a valid staged message is legal (R181). -/
structure Inv (s : State) : Prop where
  /-- The buffer is in canonical form. -/
  buf_wf : Memory.wf s.buf
  /-- R36 (a). -/
  len_le : s.len.toNat ≤ 246
  /-- R26, R77: a candidate begins with the header bytes. -/
  header0 : 1 ≤ s.len.toNat → Memory.read s.buf 0 = Config.hdr0
  header1 : 2 ≤ s.len.toNat → Memory.read s.buf 1 = Config.hdr1
  /-- R24, R36 (b): the CRC field as far as it has arrived. -/
  crc_header : 2 ≤ s.len.toNat → s.crcHeader = beUnpack 32 (Memory.slice s.buf 2 (min s.len.toNat 6 - 2))
  /-- R25, R36 (b): the CRC of the body bytes stored so far. -/
  crc_body : 2 ≤ s.len.toNat → s.crcBody = crc32b 0 (Memory.slice s.buf 6 (s.len.toNat - 6))
  /-- R36 (c): the counters are in range and not both zero. -/
  counters : 7 ≤ s.len.toNat →
    -144 ≤ s.remainingObjects.toInt ∧ s.remainingObjects.toInt ≤ 15 ∧
      ¬ (s.remainingObjects = 0 ∧ s.remainingBytes = 0)
  /-- R36 (e), with the values a count byte below `0x90` leaves. -/
  negative : 7 ≤ s.len.toNat → s.remainingObjects.toInt < 0 →
    s.len.toNat = 7 ∧ s.remainingObjects.toInt = s.declared ∧ s.remainingBytes = 0
  /-- The counters are what the stored object bytes imply. -/
  parsed : 7 ≤ s.len.toNat → 0 ≤ s.remainingObjects.toInt →
    0 ≤ s.declared ∧ s.declared ≤ 15 ∧
      countersAfter (Memory.slice s.buf 7 (s.len.toNat - 7)) s.declared.toNat 0 =
        some (s.remainingObjects.toNat, s.remainingBytes.toNat)
  /-- R36 (d), with the payload bytes still to come counted in. -/
  bound : 7 ≤ s.len.toNat → 0 ≤ s.remainingObjects.toInt →
    ((s.len.toNat - 7 + s.remainingBytes.toNat : Nat) : Int) ≤ 16 * (s.declared - s.remainingObjects.toInt)
  /-- R181: a valid staged message is legal. -/
  staged : s.msgValid = true → legalMessage s.msg.objects = true

/-- The bounds of R36 (a), (c), (d), (e) alone. -/
def Bounds (s : State) : Prop :=
  s.len.toNat ≤ 246 ∧
  (7 ≤ s.len.toNat →
    s.remainingBytes.toNat ≤ 15 ∧ -144 ≤ s.remainingObjects.toInt ∧ s.remainingObjects.toInt ≤ 15 ∧
    ¬ (s.remainingObjects = 0 ∧ s.remainingBytes = 0) ∧
    (0 ≤ s.remainingObjects.toInt →
      ((s.len.toNat - 7 : Nat) : Int) ≤ 16 * (s.declared - s.remainingObjects.toInt)) ∧
    (s.remainingObjects.toInt < 0 → s.len.toNat = 7))

end Sys2Proof.Machine
end

