-- ==== Sys2Proof/Certificates/Slice0/Obligations.lean ====
section
/-! DEFINITION. The statements for the provers. Registers are written out as record updates, not through the
meanings' own helpers, so that a statement says what a rule of spec/ says. Fields of State that are the model's
own (`result`, `ghostReject`, `issue`, `draws`) are logs 3, 4, 6, 7. -/

namespace Sys2Proof.Machine

/-! ## Words used by several statements -/

/-- The offset a byte is handled at, after the over-size guard (R141). -/
def offsetOf (s : State) : Nat := if 247 ≤ s.len.toNat then 0 else s.len.toNat

/-- What a reject leaves (R252), from the registers as they were when it was raised. -/
def rejected (s : State) (cause : RejectCause) : State :=
  { s with len := 0, msgValid := false, result := some ⟨0, false⟩, ghostReject := some cause }

/-- A byte stored and the candidate still growing (R147): `msg_valid <- 0`, result `(0, 0)`. -/
def growing (s : State) : State :=
  { s with msgValid := false, result := some ⟨0, false⟩, ghostReject := none }

/-- A byte of offset 6 or above stored (R145, R146): fed into `crc_body`, `len` advanced, the counters new. -/
def grown (s : State) (b : Byte) (objects : BitVec 9) (bytes : BitVec 4) : State :=
  { s with
    remainingObjects := objects
    remainingBytes := bytes
    crcBody := crcFeed s.crcBody b
    buf := Memory.write s.buf s.len.toNat b
    len := s.len + 1 }

/-- What a complete candidate leaves (R148, R149): the CRC comparison, then the body parse of `buf[0..len)`. -/
def completed (g : State) : State :=
  if g.crcHeader ≠ g.crcBody then rejected g .crc
  else
    match bodyParse (Memory.slice g.buf 0 g.len.toNat) g.msg with
    | (m, true) => { g with len := 0, msg := m, msgValid := true, result := some ⟨0, true⟩, ghostReject := none }
    | (m, false) => rejected { g with msg := m } .body

/-- After a byte of offset 6 or above is stored (R147): complete iff both counters are zero. -/
def afterBodyByte (g : State) : State :=
  if g.remainingObjects = 0 ∧ g.remainingBytes = 0 then completed g else growing g

/-- The byte completes the candidate's structure (R147, from R145 and R146): the count byte of an empty
message, the last payload byte, or the last tag when it has no payload. -/
def lastByte (s : State) (b : Byte) : Prop :=
  (offsetOf s = 6 ∧ b = 0x90) ∨
  (7 ≤ offsetOf s ∧ s.remainingBytes = 1 ∧ s.remainingObjects = 0) ∨
  (7 ≤ offsetOf s ∧ s.remainingBytes = 0 ∧ s.remainingObjects = 1 ∧ ∃ t, decodeTag b = some t ∧ payLen t = 0)

/-- A tag byte is expected next (R146). -/
def tagExpected (s : State) : Prop :=
  7 ≤ s.len.toNat ∧ s.len.toNat < 247 ∧ s.remainingBytes = 0 ∧ 0 < s.remainingObjects.toInt

end Sys2Proof.Machine

open Sys2Proof Sys2Proof.Machine

/-! ## Encodings -/

/-- Words written out in spec/ decode to the operations they stand for: the examples of R105, R106, R107, R126,
R129, R133, R175, R178 and R230, and wire bytes of R77 to R80. -/
def Obligations.WrittenWordsDecode : Prop :=
  decodeOp 0x00000000000000000000 = .ok .nop ∧
  decodeOp 0x11000000000000000031 = .ok (.crcByte 0x31) ∧
  decodeOp 0x12000000000000000000 = .ok .crcRead ∧
  decodeOp 0x20000000000000000092 = .ok (.syncPut 0x92) ∧
  decodeOp 0x31000000000000000000 = .ok (.msgKind 0) ∧
  decodeOp 0x34300000000000000000 = .ok (.msgStrb 0 3) ∧
  decodeOp 0x40000000000000000092 = .ok (.bePack8 0x92) ∧
  decodeOp 0x43004055480000000000 = .ok (.bePack64 0x4055480000000000) ∧
  decodeOp 0x4B000807060504030201 = .ok (.beUnpack64 0x0807060504030201) ∧
  decodeWire .hdr1 0xCE = .ok .wireHdr1 ∧
  decodeWire .tag 0xCE = .ok .tagUint32 ∧
  decodeWire .count 0x9F = .ok (.wireCount 15) ∧
  decodeWire .tag 0xAA = .ok (.tagString 10)

/-- Decoding an encoding gives the instruction back, for every well-formed instruction and every operand. -/
def Obligations.DecodeOfEncodeIsTheInstruction : Prop :=
  ∀ i : Instr, i.wellFormed = true → decode (encode i) = .ok i

/-- One encoding an instruction: whatever decodes is the encoding of what it decodes to, and is well formed. -/
def Obligations.EncodeOfDecodeIsTheCode : Prop :=
  ∀ (c : Code) (i : Instr), decode c = .ok i → encode i = c ∧ i.wellFormed = true

/-- R73: a word spells the operation of a row iff its mask and match agree and the index constraints hold; a
word that spells no row is refused by the machine, not performed and not a `NOP`. -/
def Obligations.WordIsAnOperationIffARowMatches : Prop :=
  (∀ (w : OpWord) (r : TableRow), r ∈ opRows →
    ((w &&& r.mask = r.pattern ∧ (r.iBelow15 = true → OpWord.i w ≠ 15) ∧
        (r.jBelow15 = true → OpWord.j w ≠ 15)) ↔
      ∃ i, decodeOp w = .ok i ∧ i.row = r)) ∧
  (∀ (w : OpWord) (i : Instr), decodeOp w = .ok i → i.row ∈ opRows) ∧
  (∀ (s : State) (w : OpWord) (rest : List HostEvent), s.issue = .op w :: rest →
    (∀ r ∈ opRows, r.spells w = false) → ∃ why, step s = .refused (.reservedWord why))

/-- R80, R81, R82: the tag table, with the kind code and payload length of each row, and no other known tag. -/
def Obligations.TagTableIsTheSpecs : Prop :=
  (∀ row ∈ ([(0xC2, 1, 0), (0xC3, 1, 0), (0xCC, 2, 1), (0xCD, 3, 2), (0xCE, 4, 4), (0xCF, 5, 8), (0xD0, 6, 1),
      (0xD1, 7, 2), (0xD2, 8, 4), (0xD3, 9, 8), (0xCA, 10, 4), (0xCB, 11, 8)] : List (Byte × Nibble × Nat)),
    ∃ t, decodeTag row.1 = some t ∧ kindCode (kindOfTag t) = row.2.1 ∧ payLen t = row.2.2) ∧
  (∀ l : Nibble, ∃ t, decodeTag (0xA0 ||| l.setWidth 8) = some t ∧ kindCode (kindOfTag t) = 12 ∧
    payLen t = l.toNat) ∧
  (∀ b : Byte, decodeTag b = none ↔
    b.toNat ≤ 0x9F ∨ (0xB0 ≤ b.toNat ∧ b.toNat ≤ 0xC1) ∨ (0xC4 ≤ b.toNat ∧ b.toNat ≤ 0xC9) ∨
      0xD4 ≤ b.toNat)

/-! ## Steps -/

/-- R12: a step takes what the host presents from the port and performs the operation it spells. The queue of
what the host presents is the model's own (log 4). -/
def Obligations.StepPerformsThePresentedOperation : Prop :=
  ∀ (s : State) (w : OpWord) (rest : List HostEvent) (i : Instr),
    s.issue = .op w :: rest → decodeOp w = .ok i → step s = exec i { s with issue := rest }

/-- R270: after a `Reset`, caused at any step boundary, and in the state the machine starts from: `len = 0`,
`msg_valid = 0`, `crc_acc = 0`, the result port not driven. -/
def Obligations.ResetLeavesItsValues : Prop :=
  (∀ (s : State) (junk : ResetJunk) (rest : List HostEvent), s.issue = .reset junk :: rest →
    ∃ t, step s = .next t ∧ t.len = 0 ∧ t.msgValid = false ∧ t.crcAcc = 0 ∧ t.result = none) ∧
  (State.reset.len = 0 ∧ State.reset.msgValid = false ∧ State.reset.crcAcc = 0 ∧ State.reset.result = none)

/-- The junk of a `Reset` event is in the registers, and in every byte of the buffer, after it; the rest of what
the host presents is kept. That the event carries the junk is the model's choice (log 2). -/
def Obligations.ResetEventLeavesItsJunk : Prop :=
  ∀ (s : State) (junk : ResetJunk) (rest : List HostEvent), s.issue = .reset junk :: rest →
    ∃ t, step s = .next t ∧ t.remainingObjects = junk.remainingObjects ∧
      t.remainingBytes = junk.remainingBytes ∧ t.crcHeader = junk.crcHeader ∧ t.crcBody = junk.crcBody ∧
      t.msg = junk.msg ∧ t.issue = rest ∧ t.draws = s.draws ∧ t.ghostReject = none ∧
      (∀ (a : Nat) (h : a < 247), Memory.read t.buf a = junk.buf[a]) ∧ Memory.wf t.buf

/-- A wire byte in a role its row names does, as a row, what `SYNC.PUT` of that byte does (log 10). -/
def Obligations.WireRowDoesWhatSyncPutDoes : Prop :=
  ∀ (s : State) (role : WireRole) (b : Byte) (i : Instr),
    decodeWire role b = .ok i → exec i s = exec (.syncPut b) s

/-- An inference the spec marks as its own ("every operation is total on every state", R283): every operation is
total on every state: an instruction that has an encoding ends in a next state; one that has none is refused;
and no step ever faults, from any state (R16, R58). -/
def Obligations.EveryOperationEndsInANextState : Prop :=
  (∀ (i : Instr) (s : State), i.wellFormed = true → ∃ t, exec i s = .next t) ∧
  (∀ (i : Instr) (s : State), i.wellFormed = false → ∃ why, exec i s = .refused (.reservedWord why)) ∧
  (∀ (s : State) (r : Fault), step s ≠ .fault r)

/-! ## NOP and the CRC engine -/

/-- R230, R105, R107: `NOP`, `CRC.SEED`, `CRC.READ`: the words that spell them, and no other, their results and
the whole next state. -/
def Obligations.NopSeedReadResults : Prop :=
  ∀ (s : State) (seed : Crc) (w : OpWord),
    (decodeOp w = .ok .nop ↔ w = 0) ∧
    exec .nop s = .next { s with result := some ⟨0, false⟩, ghostReject := none } ∧
    (decodeOp w = .ok (.crcSeed seed) ↔ w = 0x10#8 ++ 0#4 ++ 0#4 ++ seed.setWidth 64) ∧
    exec (.crcSeed seed) s =
      .next { s with crcAcc := seed, result := some ⟨0, false⟩, ghostReject := none } ∧
    (decodeOp w = .ok .crcRead ↔ w = 0x12000000000000000000) ∧
    exec .crcRead s = .next { s with result := some ⟨s.crcAcc.setWidth 64, false⟩, ghostReject := none }

/-- R106: `CRC.BYTE b`: the words that spell it, and no other; it feeds `b` into `crc_acc` and changes nothing
else, the result is `(0, 0)`. -/
def Obligations.CrcByteFeedsTheAccumulator : Prop :=
  ∀ (s : State) (b : Byte) (w : OpWord),
    (decodeOp w = .ok (.crcByte b) ↔ w = 0x11#8 ++ 0#4 ++ 0#4 ++ b.setWidth 64) ∧
    exec (.crcByte b) s =
      .next { s with crcAcc := crcFeed s.crcAcc b, result := some ⟨0, false⟩, ghostReject := none }

/-- The continuation law and what feeding one byte is, inferences the spec marks as its own ("The continuation
law", R104; "feed one byte into a finished-convention accumulator", R110). -/
def Obligations.CrcContinues : Prop :=
  (∀ (seed : Crc) (a b : List Byte),
    crc32b (crc32b seed a) b = crc32b seed (a ++ b) ∧ crc32b seed [] = seed) ∧
  ∀ (c : Crc) (b : Byte) (bs : List Byte),
    crcFeed c b = crc32b c [b] ∧ crcFeed c b = ~~~ crcRawStep (~~~ c) b ∧ bs.foldl crcFeed c = crc32b c bs

/-- The table form gives the same value as the step for all `r` and `b`, and its entries are the step's: an
inference the spec marks as its own ("the two forms give the same value for all 2^40 inputs", R102). -/
def Obligations.CrcTableFormIsTheStep : Prop :=
  (∀ (r : Crc) (b : Byte), crcRawStep r b = crcTableStep r b) ∧
  crcTable.length = 256 ∧ ∀ i : Byte, crcTable.getD i.toNat 0 = crcRawStep 0 i

/-- For each byte the raw step is a bijection on registers, and the step is linear over XOR: inferences the spec
marks as its own (R111). -/
def Obligations.CrcStepIsBijectiveAndLinear : Prop :=
  (∀ b : Byte, Function.Bijective fun r : Crc => crcRawStep r b) ∧
  ∀ (r₁ r₂ : Crc) (b₁ b₂ : Byte),
    crcRawStep (r₁ ^^^ r₂) (b₁ ^^^ b₂) = crcRawStep r₁ b₁ ^^^ crcRawStep r₂ b₂

/-- An inference the spec marks as its own (R108): a seed, bytes and a read, with any well-formed operations but
`CRC.SEED` in between, return `CRC32B(seed, bytes)` of the bytes fed by `CRC.BYTE`, from every state. -/
def Obligations.CrcProgramReturnsTheChecksum : Prop :=
  ∀ (s : State) (seed : Crc) (p : List Instr),
    (∀ i ∈ p, i.wellFormed = true ∧ ∀ seed', i ≠ .crcSeed seed') →
    ∃ t, runOps (.crcSeed seed :: p ++ [.crcRead]) s = .next t ∧
      t.result = some ⟨(crc32b seed (p.filterMap engineByte)).setWidth 64, false⟩

/-! ## The big-endian datapath -/

/-- R126 to R129: the words that spell them, and no other, the results and whole next states of the four
`BE.PACK` operations. -/
def Obligations.BePackResults : Prop :=
  ∀ (s : State) (v8 : BitVec 8) (v16 : BitVec 16) (v32 : BitVec 32) (v64 : BitVec 64) (w : OpWord),
    (decodeOp w = .ok (.bePack8 v8) ↔ w = 0x40#8 ++ 0#4 ++ 0#4 ++ v8.setWidth 64) ∧
    exec (.bePack8 v8) s = .next { s with result := some ⟨v8.setWidth 64, false⟩, ghostReject := none } ∧
    (decodeOp w = .ok (.bePack16 v16) ↔ w = 0x41#8 ++ 0#4 ++ 0#4 ++ v16.setWidth 64) ∧
    exec (.bePack16 v16) s =
      .next { s with
        result := some ⟨(v16.extractLsb' 0 8 ++ v16.extractLsb' 8 8).setWidth 64, false⟩, ghostReject := none } ∧
    (decodeOp w = .ok (.bePack32 v32) ↔ w = 0x42#8 ++ 0#4 ++ 0#4 ++ v32.setWidth 64) ∧
    exec (.bePack32 v32) s =
      .next { s with
        result := some ⟨(v32.extractLsb' 0 8 ++ v32.extractLsb' 8 8 ++ v32.extractLsb' 16 8 ++
          v32.extractLsb' 24 8).setWidth 64, false⟩
        ghostReject := none } ∧
    (decodeOp w = .ok (.bePack64 v64) ↔ w = 0x43#8 ++ 0#4 ++ 0#4 ++ v64) ∧
    exec (.bePack64 v64) s =
      .next { s with
        result := some ⟨v64.extractLsb' 0 8 ++ v64.extractLsb' 8 8 ++ v64.extractLsb' 16 8 ++
          v64.extractLsb' 24 8 ++ v64.extractLsb' 32 8 ++ v64.extractLsb' 40 8 ++ v64.extractLsb' 48 8 ++
          v64.extractLsb' 56 8, false⟩
        ghostReject := none }

/-- R130 to R133: the words that spell them, and no other, the results and whole next states of the four
`BE.UNPACK` operations; the result is zero-extended. -/
def Obligations.BeUnpackResults : Prop :=
  ∀ (s : State) (v8 : BitVec 8) (v16 : BitVec 16) (v32 : BitVec 32) (v64 : BitVec 64) (w : OpWord),
    (decodeOp w = .ok (.beUnpack8 v8) ↔ w = 0x48#8 ++ 0#4 ++ 0#4 ++ v8.setWidth 64) ∧
    exec (.beUnpack8 v8) s = .next { s with result := some ⟨v8.setWidth 64, false⟩, ghostReject := none } ∧
    (decodeOp w = .ok (.beUnpack16 v16) ↔ w = 0x49#8 ++ 0#4 ++ 0#4 ++ v16.setWidth 64) ∧
    exec (.beUnpack16 v16) s =
      .next { s with
        result := some ⟨(v16.extractLsb' 0 8 ++ v16.extractLsb' 8 8).setWidth 64, false⟩, ghostReject := none } ∧
    (decodeOp w = .ok (.beUnpack32 v32) ↔ w = 0x4A#8 ++ 0#4 ++ 0#4 ++ v32.setWidth 64) ∧
    exec (.beUnpack32 v32) s =
      .next { s with
        result := some ⟨(v32.extractLsb' 0 8 ++ v32.extractLsb' 8 8 ++ v32.extractLsb' 16 8 ++
          v32.extractLsb' 24 8).setWidth 64, false⟩
        ghostReject := none } ∧
    (decodeOp w = .ok (.beUnpack64 v64) ↔ w = 0x4B#8 ++ 0#4 ++ 0#4 ++ v64) ∧
    exec (.beUnpack64 v64) s =
      .next { s with
        result := some ⟨v64.extractLsb' 0 8 ++ v64.extractLsb' 8 8 ++ v64.extractLsb' 16 8 ++
          v64.extractLsb' 24 8 ++ v64.extractLsb' 32 8 ++ v64.extractLsb' 40 8 ++ v64.extractLsb' 48 8 ++
          v64.extractLsb' 56 8, false⟩
        ghostReject := none }

/-- R120, R121: each byte of `be_pack_n`, and `be_unpack_n` as the number its bytes spell in base 256. -/
def Obligations.BeFunctionsAreBigEndian : Prop :=
  ∀ n ∈ [1, 2, 4, 8],
    (∀ v : BitVec (8 * n), (bePack n v).length = n ∧
      ∀ k < n, (bePack n v).getD k 0 = v.extractLsb' (8 * (n - 1 - k)) 8) ∧
    ∀ s : List Byte, s.length = n →
      (beUnpack (8 * n) s).toNat = ((List.range n).map fun k => (s.getD k 0).toNat * 256 ^ (n - 1 - k)).sum

/-- Packing and unpacking are inverse at every width: an inference the spec marks as its own ("The two are
inverse", R122). -/
def Obligations.BeFunctionsAreInverse : Prop :=
  ∀ n ∈ [1, 2, 4, 8],
    (∀ v : BitVec (8 * n), beUnpack (8 * n) (bePack n v) = v) ∧
    ∀ s : List Byte, s.length = n → bePack n (beUnpack (8 * n) s) = s

/-! ## The staged message -/

/-- R174 to R178: the words that spell the five reads, and no other; what they return when the read is defined;
otherwise some value, whatever it is (`STALE_READ`), with `flag = 0`. No register changes either way; `draws`, the
counter of free values, is the model's own (log 3), and nothing is said of it. -/
def Obligations.MessageReadsByTheWindow : Prop :=
  ∀ (s : State) (i j : Nibble) (w : OpWord),
    (decodeOp w = .ok .msgLen ↔ w = 0x30000000000000000000) ∧
    (s.msgValid = true → exec .msgLen s =
      .next { s with result := some ⟨s.msg.len.setWidth 64, false⟩, ghostReject := none }) ∧
    (s.msgValid = false → ∃ v n, exec .msgLen s =
      .next { s with result := some ⟨v, false⟩, ghostReject := none, draws := n }) ∧
    ∀ (h15 : i.toNat < 15) (hj : j.toNat < 15),
      (decodeOp w = .ok (.msgKind i) ↔ w = 0x31#8 ++ 0#4 ++ i ++ 0#64) ∧
      (decodeOp w = .ok (.msgVal i) ↔ w = 0x32#8 ++ 0#4 ++ i ++ 0#64) ∧
      (decodeOp w = .ok (.msgSlen i) ↔ w = 0x33#8 ++ 0#4 ++ i ++ 0#64) ∧
      (decodeOp w = .ok (.msgStrb i j) ↔ w = 0x34#8 ++ j ++ i ++ 0#64) ∧
      (s.msgValid = true → i.toNat < s.msg.len.toNat →
        exec (.msgKind i) s =
          .next { s with result := some ⟨s.msg.obj[i.toNat].kind.setWidth 64, false⟩, ghostReject := none } ∧
        exec (.msgVal i) s =
          .next { s with result := some ⟨s.msg.obj[i.toNat].val, false⟩, ghostReject := none } ∧
        exec (.msgSlen i) s =
          .next { s with result := some ⟨s.msg.obj[i.toNat].slen.setWidth 64, false⟩, ghostReject := none } ∧
        exec (.msgStrb i j) s =
          .next { s with
            result := some ⟨s.msg.obj[i.toNat].str[j.toNat].setWidth 64, false⟩, ghostReject := none }) ∧
      (s.msgValid = false ∨ s.msg.len.toNat ≤ i.toNat →
        ∀ op ∈ [Instr.msgKind i, .msgVal i, .msgSlen i, .msgStrb i j], ∃ v n, exec op s =
          .next { s with result := some ⟨v, false⟩, ghostReject := none, draws := n })

/-- Each undefined read draws its own free value: the model's form of `STALE_READ` (log 3; "treat it as a free
draw at each such read", R179). The value is never said. -/
def Obligations.EachUndefinedReadDrawsAFreshValue : Prop :=
  ∀ (s : State) (i j : Nibble), i ≠ 15 → j ≠ 15 →
    (s.msgValid = false → exec .msgLen s = .next { s with
      result := some ⟨Config.staleRead s.draws, false⟩, ghostReject := none, draws := s.draws + 1 }) ∧
    (s.msgValid = false ∨ s.msg.len.toNat ≤ i.toNat →
      ∀ op ∈ [Instr.msgKind i, .msgVal i, .msgSlen i, .msgStrb i j], exec op s = .next { s with
        result := some ⟨Config.staleRead s.draws, false⟩, ghostReject := none, draws := s.draws + 1 })

/-- R73: an index of 15 is no index: the indexed reads stop by name. -/
def Obligations.IndexFifteenIsRefused : Prop :=
  ∀ (s : State) (i j : Nibble),
    exec (.msgKind 15) s = .refused (.reservedWord .reservedSlotIndex) ∧
    exec (.msgVal 15) s = .refused (.reservedWord .reservedSlotIndex) ∧
    exec (.msgSlen 15) s = .refused (.reservedWord .reservedSlotIndex) ∧
    exec (.msgStrb i 15) s = .refused (.reservedWord .reservedByteIndex) ∧
    (j ≠ 15 → exec (.msgStrb 15 j) s = .refused (.reservedWord .reservedSlotIndex))

/-- R171, R172: the slot `DecodeObject` writes for each tag and a payload of its length: all four fields, the
value big-endian and zero-extended, a String verbatim with its wire length and zero above it. -/
def Obligations.DecodedObjectFillsItsSlot : Prop :=
  (∀ payload, decodeObject .boolFalse payload = ⟨1, 0, 0, Vector.replicate 15 0⟩ ∧
    decodeObject .boolTrue payload = ⟨1, 1, 0, Vector.replicate 15 0⟩) ∧
  (∀ row ∈ ([(.uint8, 2, 1), (.uint16, 3, 2), (.uint32, 4, 4), (.uint64, 5, 8), (.int8, 6, 1), (.int16, 7, 2),
      (.int32, 8, 4), (.int64, 9, 8), (.float, 10, 4), (.double, 11, 8)] : List (Tag × Nibble × Nat)),
    ∀ payload : List Byte, payload.length = row.2.2 →
      (decodeObject row.1 payload).kind = row.2.1 ∧
      (decodeObject row.1 payload).val.toNat =
        ((List.range row.2.2).map fun k => (payload.getD k 0).toNat * 256 ^ (row.2.2 - 1 - k)).sum ∧
      (decodeObject row.1 payload).slen = 0 ∧
      (decodeObject row.1 payload).str = Vector.replicate 15 0) ∧
  ∀ (l : Nibble) (payload : List Byte), payload.length = l.toNat →
    (decodeObject (.string l) payload).kind = 12 ∧
    (decodeObject (.string l) payload).val = 0 ∧
    (decodeObject (.string l) payload).slen = l ∧
    (decodeObject (.string l) payload).str.toList = payload ++ List.replicate (15 - l.toNat) 0

/-- The software's logical length of a String slot is the position of the first zero byte of the payload, or the
wire length if there is none: an inference the spec marks as its own ("Software that takes DOC's in-memory view
... will see a shorter string", R180). -/
def Obligations.LogicalLengthStopsAtTheFirstZero : Prop :=
  ∀ (l : Nibble) (payload : List Byte), payload.length = l.toNat →
    (decodeObject (.string l) payload).logicalLen = payload.findIdx (· == 0) ∧
    (decodeObject (.string l) payload).logicalLen ≤ (decodeObject (.string l) payload).slen.toNat

/-- An inference the spec marks as its own ("What the staged message can hold", R181): after a `SYNC.PUT` that
ends ready, from every state, the staged message is legal: at most 15 Objects, kinds 1 to 12, a Bool is 0 or 1,
a String zero-filled. -/
def Obligations.ReadyMessageIsLegal : Prop :=
  ∀ (s : State) (b : Byte) (t : State), exec (.syncPut b) s = .next t → t.report.flag = true →
    t.msgValid = true ∧ t.msg.objects.length = t.msg.len.toNat ∧ t.msg.len.toNat ≤ 15 ∧
    ∀ o ∈ t.msg.objects, o.legal = true ∧ 1 ≤ o.kind.toNat ∧ o.kind.toNat ≤ 12 ∧
      (o.kind = 1 → o.val = 0 ∨ o.val = 1) ∧
      (o.kind = 12 → ∀ j < 15, o.slen.toNat ≤ j → o.str.toList.getD j 0 = 0)

/-! ## The arms of SYNC.PUT -/

/-- R141: with `len ≥ 247` the byte is handled exactly as if `len` had been 0. -/
def Obligations.OverSizeByteStartsANewCandidate : Prop :=
  ∀ (s : State) (b : Byte), 247 ≤ s.len.toNat →
    exec (.syncPut b) s = exec (.syncPut b) { s with len := 0 }

/-- R142, R143: arms HDR0 and HDR1. -/
def Obligations.HeaderBytesAreStoredOrRejected : Prop :=
  ∀ (s : State) (b : Byte),
    (s.len = 0 →
      exec (.syncPut 0x92) s = .next (growing { s with buf := Memory.write s.buf 0 0x92, len := 1 }) ∧
      (b ≠ 0x92 → exec (.syncPut b) s = .next (rejected s .hdr0))) ∧
    (s.len = 1 →
      exec (.syncPut 0xCE) s =
        .next (growing { s with buf := Memory.write s.buf 1 0xCE, crcHeader := 0, crcBody := 0, len := 2 }) ∧
      (b ≠ 0xCE → exec (.syncPut b) s = .next (rejected s .hdr1)))

/-- R144: arm CRCFIELD: any byte is shifted into `crc_header` and stored; `crc_body` is not written. -/
def Obligations.CrcFieldByteIsShiftedIn : Prop :=
  ∀ (s : State) (b : Byte), 2 ≤ s.len.toNat → s.len.toNat ≤ 5 →
    exec (.syncPut b) s =
      .next (growing { s with
        crcHeader := (s.crcHeader <<< 8) ||| b.setWidth 32
        buf := Memory.write s.buf s.len.toNat b
        len := s.len + 1 })

/-- R145: arm COUNT, all three classes of byte: `remaining_objects` becomes `b − 0x90` exactly; above 15 the byte
is rejected; otherwise it is fed and stored, a negative count too. -/
def Obligations.CountByteSetsTheCounters : Prop :=
  ∀ (s : State) (b : Byte), s.len = 6 →
    (BitVec.ofInt 9 ((b.toNat : Int) - 0x90)).toInt = (b.toNat : Int) - 0x90 ∧
    (0xA0 ≤ b.toNat → exec (.syncPut b) s =
      .next (rejected { s with remainingObjects := BitVec.ofInt 9 ((b.toNat : Int) - 0x90) } .count)) ∧
    (b.toNat < 0xA0 → exec (.syncPut b) s =
      .next (afterBodyByte (grown s b (BitVec.ofInt 9 ((b.toNat : Int) - 0x90)) 0)))

/-- R146: arm BODY, all its branches: a payload byte of any value; a known tag; an unknown tag; a surplus byte. -/
def Obligations.BodyByteByBranch : Prop :=
  ∀ (s : State) (b : Byte), 7 ≤ s.len.toNat → s.len.toNat < 247 →
    (s.remainingBytes ≠ 0 → exec (.syncPut b) s =
      .next (afterBodyByte (grown s b s.remainingObjects (s.remainingBytes - 1)))) ∧
    (s.remainingBytes = 0 → 0 < s.remainingObjects.toInt →
      (∀ t, decodeTag b = some t → exec (.syncPut b) s =
        .next (afterBodyByte (grown s b (s.remainingObjects - 1) (BitVec.ofNat 4 (payLen t))))) ∧
      (decodeTag b = none → exec (.syncPut b) s =
        .next (rejected { s with remainingObjects := s.remainingObjects - 1 } .tag))) ∧
    (s.remainingBytes = 0 → s.remainingObjects.toInt ≤ 0 → exec (.syncPut b) s =
      .next (rejected s .surplus))

/-- Each wire row of the table in the place it names (offset 0, offset 1, offsets 2 to 5, offset 6, a place
where a tag is expected) does what its arm says: the byte is stored, the CRC field shifted, the counters set; a
tag leaves one object fewer to come and its row's payload length to come. That such a row is an instruction at
all, the synchronizer's step on its byte, is the model's choice (log 10). -/
def Obligations.WireRowsInTheirPlaces : Prop :=
  ∀ s : State,
    (s.len = 0 →
      exec .wireHdr0 s = .next (growing { s with buf := Memory.write s.buf 0 0x92, len := 1 })) ∧
    (s.len = 1 → exec .wireHdr1 s =
      .next (growing { s with buf := Memory.write s.buf 1 0xCE, crcHeader := 0, crcBody := 0, len := 2 })) ∧
    (2 ≤ s.len.toNat → s.len.toNat ≤ 5 → ∀ c : Byte, exec (.wireCrc c) s =
      .next (growing { s with
        crcHeader := (s.crcHeader <<< 8) ||| c.setWidth 32
        buf := Memory.write s.buf s.len.toNat c
        len := s.len + 1 })) ∧
    (s.len = 6 → ∀ n : Nibble, exec (.wireCount n) s =
      .next (afterBodyByte (grown s (0x90 ||| n.setWidth 8) (n.setWidth 9) 0))) ∧
    (tagExpected s →
      (∀ row ∈ ([(.tagBoolFalse, 0xC2, 0), (.tagBoolTrue, 0xC3, 0), (.tagFloat, 0xCA, 4), (.tagDouble, 0xCB, 8),
          (.tagUint8, 0xCC, 1), (.tagUint16, 0xCD, 2), (.tagUint32, 0xCE, 4), (.tagUint64, 0xCF, 8),
          (.tagInt8, 0xD0, 1), (.tagInt16, 0xD1, 2), (.tagInt32, 0xD2, 4), (.tagInt64, 0xD3, 8)] :
          List (Instr × Byte × BitVec 4)),
        exec row.1 s = .next (afterBodyByte (grown s row.2.1 (s.remainingObjects - 1) row.2.2))) ∧
      ∀ l : Nibble, exec (.tagString l) s =
        .next (afterBodyByte (grown s (0xA0 ||| l.setWidth 8) (s.remainingObjects - 1) l)))

/-- R241: under exactly which condition each reject arises, from every state, which code its label has, what `len`
is after it and whether the byte was stored; and when the byte ends ready instead. The label is the ghost output
the rule allows (log 7). -/
def Obligations.RejectCausesAndReadyByCondition : Prop :=
  (∀ (s : State) (b : Byte) (t : State), exec (.syncPut b) s = .next t →
    (t.ghostReject = some .hdr0 ↔ offsetOf s = 0 ∧ b ≠ 0x92) ∧
    (t.ghostReject = some .hdr1 ↔ offsetOf s = 1 ∧ b ≠ 0xCE) ∧
    (t.ghostReject = some .count ↔ offsetOf s = 6 ∧ 0xA0 ≤ b.toNat) ∧
    (t.ghostReject = some .tag ↔
      7 ≤ offsetOf s ∧ s.remainingBytes = 0 ∧ 0 < s.remainingObjects.toInt ∧ decodeTag b = none) ∧
    (t.ghostReject = some .surplus ↔
      7 ≤ offsetOf s ∧ s.remainingBytes = 0 ∧ s.remainingObjects.toInt ≤ 0) ∧
    (t.ghostReject = some .crc ↔ lastByte s b ∧ s.crcHeader ≠ crcFeed s.crcBody b) ∧
    (t.ghostReject = some .body ↔ lastByte s b ∧ s.crcHeader = crcFeed s.crcBody b ∧
      (bodyParse (Memory.slice s.buf 0 (offsetOf s) ++ [b]) s.msg).2 = false) ∧
    (t.report.flag = true ↔ lastByte s b ∧ s.crcHeader = crcFeed s.crcBody b ∧
      (bodyParse (Memory.slice s.buf 0 (offsetOf s) ++ [b]) s.msg).2 = true) ∧
    (∀ cause, t.ghostReject = some cause → t.len = 0 ∧
      (cause = .crc ∨ cause = .body → t.buf = Memory.write s.buf (offsetOf s) b) ∧
      (cause ≠ .crc → cause ≠ .body → t.buf = s.buf))) ∧
  ([RejectCause.hdr0, .hdr1, .count, .tag, .surplus, .crc, .body].map RejectCause.code = [1, 2, 3, 4, 5, 6, 7])

/-- R252: what a raised reject leaves: `len` and `msg_valid` are 0 and the result is `(0, 0)`; nothing is saved,
`msg` is untouched, and the buffer, the counters and the CRC registers are as the operation had them when it
raised the reject; nothing else happens, and the next byte is taken as the first of a new candidate. The cause
label is the model's ghost (log 7). A failed body parse ends the same way, with
`msg` as the parser left it. -/
def Obligations.RejectLeavesTheSynchronizerIdle : Prop :=
  ∀ (s : State) (b : Byte) (t : State) (cause : RejectCause),
    exec (.syncPut b) s = .next t → t.ghostReject = some cause →
    (cause = .hdr0 ∨ cause = .hdr1 ∨ cause = .surplus → t = rejected s cause) ∧
    (cause = .count →
      t = rejected { s with remainingObjects := BitVec.ofInt 9 ((b.toNat : Int) - 0x90) } cause) ∧
    (cause = .tag → t = rejected { s with remainingObjects := s.remainingObjects - 1 } cause) ∧
    (cause = .crc → t = rejected { s with
      remainingObjects := 0
      remainingBytes := 0
      crcBody := crcFeed s.crcBody b
      buf := Memory.write s.buf (offsetOf s) b } cause) ∧
    (cause = .body → t = rejected { s with
      remainingObjects := 0
      remainingBytes := 0
      crcBody := crcFeed s.crcBody b
      buf := Memory.write s.buf (offsetOf s) b
      msg := (bodyParse (Memory.slice s.buf 0 (offsetOf s) ++ [b]) s.msg).1 } cause) ∧
    exec (.syncPut 0x92) t = .next (growing { t with buf := Memory.write t.buf 0 0x92, len := 1 }) ∧
    ∀ c : Byte, c ≠ 0x92 → exec (.syncPut c) t = .next (rejected t .hdr0)

/-! ## Frames -/

/-- The frame of `SYNC.PUT` and of every wire row (R112, R140, R150, R156, R157): `crc_acc` and the model's own
queue and counter are unchanged; `len` becomes 0 or one more than the offset; one byte of the buffer at most is
written, at the offset, and every other reads as before; the counters change only from offset 6 on, the CRC
registers only at the offsets their arms say; `msg` changes only when the body parser runs; `msg_valid` is
`flag`, and `res` is 0. -/
def Obligations.SynchronizerFrame : Prop :=
  ∀ (i : Instr) (b : Byte) (s t : State), putByte i = some b → exec i s = .next t →
    t.crcAcc = s.crcAcc ∧ t.issue = s.issue ∧ t.draws = s.draws ∧
    (t.len = 0 ∨ t.len.toNat = offsetOf s + 1) ∧
    (∀ a, a ≠ offsetOf s → Memory.read t.buf a = Memory.read s.buf a) ∧
    (t.buf = s.buf ∨ Memory.read t.buf (offsetOf s) = b) ∧
    (offsetOf s ≤ 5 → t.remainingObjects = s.remainingObjects ∧ t.remainingBytes = s.remainingBytes) ∧
    (offsetOf s = 0 ∨ 6 ≤ offsetOf s → t.crcHeader = s.crcHeader) ∧
    (offsetOf s ≠ 1 → offsetOf s ≤ 5 → t.crcBody = s.crcBody) ∧
    (t.report.flag = false → t.ghostReject ≠ some .body → t.msg = s.msg) ∧
    t.msgValid = t.report.flag ∧ (∃ flag, t.result = some ⟨0, flag⟩)

/-- The frame of every other operation (R29, R31, R57, R108, R240): unit U2 and the buffer are untouched, no
reject arises, `flag` is 0, and `crc_acc` changes only by `CRC.SEED` and `CRC.BYTE`; the model's counter of free
values moves only with an undefined read. -/
def Obligations.OtherOperationsFrame : Prop :=
  ∀ (i : Instr) (s t : State), putByte i = none → exec i s = .next t →
    t.syncPart = s.syncPart ∧ (∀ a, Memory.read t.buf a = Memory.read s.buf a) ∧
    t.issue = s.issue ∧ t.ghostReject = none ∧ (∃ res, t.result = some ⟨res, false⟩) ∧
    ((∀ seed, i ≠ .crcSeed seed) → (∀ b, i ≠ .crcByte b) → t.crcAcc = s.crcAcc) ∧
    (t.draws = s.draws ∨
      (t.draws = s.draws + 1 ∧ t.result = some ⟨Config.staleRead s.draws, false⟩ ∧
        (i = .msgLen ∨ ∃ k j, i = .msgKind k ∨ i = .msgVal k ∨ i = .msgSlen k ∨ i = .msgStrb k j)))

/-- The units share no state (R112, R283): what the synchronizer holds after a program is what it holds after the
program's `SYNC.PUT`s alone. -/
def Obligations.SynchronizerIgnoresTheOtherUnits : Prop :=
  ∀ (p : List Instr) (s t u : State),
    runOps p s = .next t → runOps (p.filter fun i => (putByte i).isSome) s = .next u →
    t.syncPart = u.syncPart

/-- R75: `SYNC.FEED` is the sequence of its `SYNC.PUT`s, and it always ends. -/
def Obligations.FeedIsItsPuts : Prop :=
  ∀ (bs : List Byte) (s : State),
    ∃ reports t, feed bs s = some (reports, t) ∧ reports.length = bs.length ∧ runOps (syncFeed bs) s = .next t

/-! ## The invariant -/

/-- The invariant holds in the state the machine starts from and after every `Reset` event. -/
def Obligations.ResetMeetsTheInvariant : Prop :=
  Inv State.reset ∧
  ∀ (s : State) (junk : ResetJunk) (rest : List HostEvent), s.issue = .reset junk :: rest →
    ∃ t, step s = .next t ∧ Inv t

/-- Every step, from every state that meets the invariant, keeps it. The invariant is the model's, with the bounds
of R36 in it, an inference the spec marks as its own. -/
def Obligations.EveryStepKeepsTheInvariant : Prop :=
  ∀ s t : State, Inv s → step s = .next t → Inv t

/-- The bounds of R36 (a), (c), (d), (e) between operations, however the host drives the block from reset: an
inference the spec marks as its own ("These are consequences of the rules, not extra rules"). -/
def Obligations.BoundsHoldInEveryRun : Prop :=
  ∀ (events : List HostEvent) (k : Nat) (t : State),
    Sys2Proof.core.run k { State.reset with issue := events } = .next t → Bounds t

/-- Under the invariant the body parser never fails, so cause `BODY` never arises: an inference the spec marks as
its own ("From `Reset` the failure branch is never taken", R149). -/
def Obligations.BodyParseNeverFailsUnderTheInvariant : Prop :=
  ∀ (s : State) (b : Byte) (t : State), Inv s → exec (.syncPut b) s = .next t → t.ghostReject ≠ some .body

/-- Under the invariant, a byte that ends ready completes a candidate that `FRAME_DECODE` accepts, with
the staged message as its message: an inference the spec marks as its own ("What a ready result means", R151). -/
def Obligations.ReadyCandidateDecodes : Prop :=
  ∀ (s : State) (b : Byte) (t : State), Inv s → exec (.syncPut b) s = .next t → t.report.flag = true →
    frameDecode (Memory.slice s.buf 0 s.len.toNat ++ [b]) = some t.msg.objects

/-- R154, under the model's invariant: a candidate is abandoned or completed at the latest when 247 bytes have
arrived. -/
def Obligations.CandidateEndsWithin247Bytes : Prop :=
  ∀ (s : State) (bs : List Byte), Inv s → bs.length = 247 - s.len.toNat →
    ∃ k reports t, 1 ≤ k ∧ k ≤ bs.length ∧ feed (bs.take k) s = some (reports, t) ∧ t.len = 0

/-- No single byte is rejected in every state: an inference the spec marks as its own ("no single byte is rejected
in every state", R231). -/
def Obligations.NoByteIsRejectedEverywhere : Prop :=
  ∀ b : Byte, ∃ s t : State, Inv s ∧ exec (.syncPut b) s = .next t ∧ t.ghostReject = none

/-! ## Frames on the wire -/

/-- An inference the spec marks as its own ("What a ready result means", R151): if a stream fed from idle ends
ready, its last bytes are a sequence that `FRAME_DECODE` accepts, and the staged message is that sequence's
message. -/
def Obligations.ReadyMessageIsInTheStream : Prop :=
  ∀ (s t : State) (bs : List Byte) (reports : List PutReport) (cause : Option RejectCause),
    s.len = 0 → feed bs s = some (reports, t) → reports.getLast? = some ⟨true, cause⟩ →
    ∃ before frame, bs = before ++ frame ∧ frameDecode frame = some t.msg.objects

/-- Inferences the spec marks as its own ("A clean frame from idle is always accepted", R152; "The five reads
together", R182): a clean frame fed from idle, whatever the other registers hold, is not rejected anywhere, is
ready on its last byte and on no other, and the five reads then return exactly its message. -/
def Obligations.CleanFrameIsAcceptedAndReadBack : Prop :=
  ∀ (s : State) (frame : List Byte) (m : List Slot), s.len = 0 → frameDecode frame = some m →
    ∃ t, feed frame s = some (List.replicate (frame.length - 1) ⟨false, none⟩ ++ [⟨true, none⟩], t) ∧
      t.len = 0 ∧ t.msgValid = true ∧ t.msg.objects = m ∧
      exec .msgLen t = .next { t with result := some ⟨BitVec.ofNat 64 m.length, false⟩, ghostReject := none } ∧
      ∀ (i j : Nibble) (h : i.toNat < m.length) (hj : j.toNat < 15),
        exec (.msgKind i) t =
          .next { t with result := some ⟨m[i.toNat].kind.setWidth 64, false⟩, ghostReject := none } ∧
        exec (.msgVal i) t = .next { t with result := some ⟨m[i.toNat].val, false⟩, ghostReject := none } ∧
        exec (.msgSlen i) t =
          .next { t with result := some ⟨m[i.toNat].slen.setWidth 64, false⟩, ghostReject := none } ∧
        exec (.msgStrb i j) t =
          .next { t with result := some ⟨m[i.toNat].str[j.toNat].setWidth 64, false⟩, ghostReject := none }

/-- R208, an inference the spec marks as its own, read with "without rejecting" (R152), which is the model's
choice (log 14): `FRAME_DECODE(F)` succeeds with `m` iff a synchronizer
at `len = 0` fed `F` rejects nothing, is ready on the last byte and on no other, and stages `m`. -/
def Obligations.StreamAndOneShotAgreeWithoutRejects : Prop :=
  ∀ (s : State) (frame : List Byte) (m : List Slot), s.len = 0 →
    (frameDecode frame = some m ↔
      ∃ reports t, feed frame s = some (reports, t) ∧
        reports.map PutReport.flag = readyOnLast frame.length ∧
        (∀ r ∈ reports, r.cause = none) ∧ t.msg.objects = m)

/-- R208, an inference the spec marks as its own, to the letter, which is false (log 14): a rejected byte before
a frame also reports `flag = 0`. -/
def Obligations.StreamAndOneShotAgreeToTheLetter : Prop :=
  ∀ (s : State) (frame : List Byte) (m : List Slot), s.len = 0 →
    (frameDecode frame = some m ↔
      ∃ reports t, feed frame s = some (reports, t) ∧
        reports.map PutReport.flag = readyOnLast frame.length ∧ t.msg.objects = m)

/-- An inference the spec marks as its own (R205): the round trip both ways: a legal Message is what its frame
decodes to, and a frame that decodes is the encoding of its Message, which is legal. -/
def Obligations.FrameRoundTrip : Prop :=
  (∀ m : List Slot, legalMessage m = true → frameDecode (frameEncode m) = some m) ∧
  ∀ (frame : List Byte) (m : List Slot), frameDecode frame = some m →
    frameEncode m = frame ∧ legalMessage m = true

/-- An inference the spec marks as its own ("CRC rejection", R206): a frame with one bit flipped, in any byte,
does not decode. -/
def Obligations.OneFlippedBitIsDetected : Prop :=
  ∀ (frame : List Byte) (m : List Slot), frameDecode frame = some m →
    ∀ k j : Nat, k < frame.length → j < 8 → frameDecode (frame.modify k (· ^^^ (1#8 <<< j))) = none

/-- R207: the empty Message's frame has 7 bytes, fifteen Strings of fifteen bytes have 247, no Message encodes
longer; and the size is the sum of the parts (R201). -/
def Obligations.FrameSizes : Prop :=
  (frameEncode []).length = 7 ∧
  (∀ m : List Slot, m.length = 15 → legalMessage m = true → (∀ o ∈ m, o.kind = 12 ∧ o.slen = 15) →
    (frameEncode m).length = 247) ∧
  (∀ m : List Slot, legalMessage m = true →
    (frameEncode m).length = msgSize m ∧ 7 ≤ msgSize m ∧ msgSize m ≤ 247) ∧
  ∀ o : Slot, o.legal = true → objSize o ≤ 16

/-! ## What the right-hand side of R208 says -/

/-- What R208's right-hand side comes to, exactly (log 14): from idle, a stream is ready on its last byte and on no
other and stages `m` iff it is a prefix that is never ready and ends idle, then a sequence that `FRAME_DECODE`
accepts with `m`. R208, an inference the spec marks as its own, is the case of an empty prefix; R142 allows others
(V40). -/
def Obligations.ReadyOnLastIffIdlePrefixThenFrame : Prop :=
  ∀ (s : State) (stream : List Byte) (m : List Slot), s.len = 0 →
    ((∃ reports t, feed stream s = some (reports, t) ∧
        reports.map PutReport.flag = readyOnLast stream.length ∧ t.msg.objects = m) ↔
      ∃ before frame, stream = before ++ frame ∧ frameDecode frame = some m ∧
        ∃ reports t, feed before s = some (reports, t) ∧ (∀ r ∈ reports, r.flag = false) ∧ t.len = 0)

/-- The bad input R208 sets apart ("both refuse the frame"): a count byte below `0x90` makes `FRAME_DECODE` fail
whatever follows it, and makes the synchronizer, which has rejected nothing until then, reject the byte after it. -/
def Obligations.CountByteBelowTheBaseIsRefusedByBoth : Prop :=
  ∀ (s : State) (c0 c1 c2 c3 n next : Byte) (rest : List Byte), s.len = 0 → n.toNat < 0x90 →
    frameDecode (0x92 :: 0xCE :: c0 :: c1 :: c2 :: c3 :: n :: rest) = none ∧
    ∃ t, feed [0x92, 0xCE, c0, c1, c2, c3, n, next] s =
        some (List.replicate 7 ⟨false, none⟩ ++ [⟨false, some .surplus⟩], t) ∧
      t.len = 0 ∧ t.msgValid = false
end

