-- ==== Sys2Proof/Laws/Decode.lean ====
section
/-! SUPPORT. Small facts of the tag table and of the fields of an operation word. -/

namespace Sys2Proof

theorem decodeTag_byte (t : Tag) : decodeTag t.byte = some t := by
  cases t with
  | string l => revert l; decide
  | _ => rfl

theorem byte_of_decodeTag {b : Byte} {t : Tag} (h : decodeTag b = some t) : t.byte = b := by
  have key : ∀ b : Byte, ∀ t ∈ decodeTag b, t.byte = b := by decide
  exact key b t h

@[simp] theorem opcode_opWord (o : BitVec 8) (j i : Nibble) (a : Port64) : OpWord.opcode (opWord o j i a) = o := by
  apply BitVec.eq_of_getLsbD_eq
  intro k hk
  simp only [OpWord.opcode, opWord, BitVec.getLsbD_extractLsb', BitVec.getLsbD_append, hk, decide_true,
    Bool.true_and]
  rw [if_neg (by omega), if_neg (by omega), if_neg (by omega)]
  congr 1; omega

@[simp] theorem j_opWord (o : BitVec 8) (j i : Nibble) (a : Port64) : OpWord.j (opWord o j i a) = j := by
  apply BitVec.eq_of_getLsbD_eq
  intro k hk
  simp only [OpWord.j, opWord, BitVec.getLsbD_extractLsb', BitVec.getLsbD_append, hk, decide_true,
    Bool.true_and]
  rw [if_neg (by omega), if_neg (by omega), if_pos (by omega)]
  congr 1; omega

@[simp] theorem i_opWord (o : BitVec 8) (j i : Nibble) (a : Port64) : OpWord.i (opWord o j i a) = i := by
  apply BitVec.eq_of_getLsbD_eq
  intro k hk
  simp only [OpWord.i, opWord, BitVec.getLsbD_extractLsb', BitVec.getLsbD_append, hk, decide_true,
    Bool.true_and]
  rw [if_neg (by omega), if_pos (by omega)]
  congr 1; omega

@[simp] theorem arg_opWord (o : BitVec 8) (j i : Nibble) (a : Port64) : OpWord.arg (opWord o j i a) = a := by
  apply BitVec.eq_of_getLsbD_eq
  intro k hk
  simp only [OpWord.arg, opWord, BitVec.getLsbD_extractLsb', BitVec.getLsbD_append, hk, decide_true,
    Bool.true_and]
  rw [if_pos (by omega)]
  congr 1; omega

/-- A word is its four fields. -/
theorem opWord_fields (w : OpWord) :
    opWord (OpWord.opcode w) (OpWord.j w) (OpWord.i w) (OpWord.arg w) = w := by
  apply BitVec.eq_of_getLsbD_eq
  intro k hk
  simp only [OpWord.opcode, OpWord.j, OpWord.i, OpWord.arg, opWord, BitVec.getLsbD_append,
    BitVec.getLsbD_extractLsb']
  split
  · simp [*]
  · split
    · rw [show 64 + (k - 64) = k by omega]; simp; omega
    · split
      · rw [show 68 + (k - 64 - 4) = k by omega]; simp; omega
      · rw [show 72 + (k - 64 - 4 - 4) = k by omega]; simp; omega

namespace Machine

theorem payLen_le (t : Tag) : payLen t ≤ 15 := by
  cases t <;> simp [payLen]
  omega

end Machine

end Sys2Proof
end

