-- ==== Sys2Proof/Laws/Memory.lean ====
section
/-! SUPPORT. The laws of the staging buffer: a read after a write, and the canonical form, which every memory
operation keeps. Proofs cite these and never unfold the list operations. -/

namespace Sys2Proof.Machine

theorem Memory.read_nil (a : Nat) : Memory.read [] a = Memory.unlisted a := rfl

theorem Memory.read_cons (c : Host.Cell) (m : Memory) (a : Nat) :
    Memory.read (c :: m) a = if c.1 = a then c.2 else Memory.read m a := by
  obtain ⟨k, v⟩ := c; rfl

theorem Memory.read_insert (m : Memory) (a x : Nat) (b : Byte) (h : ∀ c ∈ m, c.1 ≠ a) :
    Memory.read (Memory.insert a b m) x = if x = a then b else Memory.read m x := by
  induction m with
  | nil => simp [Memory.insert, Memory.read, eq_comm]
  | cons c m ih =>
    obtain ⟨k, v⟩ := c
    have hk : k ≠ a := h (k, v) (by simp)
    have ih := ih fun c hc => h c (by simp [hc])
    unfold Memory.insert
    split
    · simp only [Memory.read_cons, eq_comm (a := a)]
    · simp only [Memory.read_cons, ih]
      by_cases hx : k = x
      · subst hx; simp [hk]
      · simp [hx]

theorem Memory.read_erase (m : Memory) (a x : Nat) :
    Memory.read (Memory.erase m a) x = if x = a then Memory.unlisted a else Memory.read m x := by
  induction m with
  | nil =>
    by_cases h : x = a <;> simp [Memory.erase, Memory.read, h]
  | cons c m ih =>
    obtain ⟨k, v⟩ := c
    simp only [Memory.erase] at ih
    by_cases hk : k = a
    · subst hk
      by_cases hx : x = k
      · subst hx; simp [Memory.erase, ih]
      · simp [Memory.erase, ih, hx, Memory.read_cons, Ne.symm hx]
    · by_cases hx : k = x
      · subst hx; simp [Memory.erase, hk, Memory.read_cons]
      · simp [Memory.erase, hk, hx, Memory.read_cons, ih]

/-- One byte after a write, whatever the list: the written byte at its address, the old one elsewhere. -/
theorem Memory.read_write (m : Memory) (a x : Nat) (b : Byte) :
    Memory.read (Memory.write m a b) x = if x = a then b else Memory.read m x := by
  unfold Memory.write
  split
  · next h => rw [Memory.read_erase, h]
  · rw [Memory.read_insert _ _ _ _ (by simp [Memory.erase]), Memory.read_erase]
    split <;> rfl

@[simp] theorem Memory.read_write_same (m : Memory) (a : Nat) (b : Byte) :
    Memory.read (Memory.write m a b) a = b := by simp [Memory.read_write]

theorem Memory.read_write_ne (m : Memory) {a x : Nat} (b : Byte) (h : x ≠ a) :
    Memory.read (Memory.write m a b) x = Memory.read m x := by simp [Memory.read_write, h]

theorem Memory.wf_nil : Memory.wf [] := by simp [Memory.wf]

/-- The buffer of the state the machine starts from. -/
theorem reset_buf_wf : Memory.wf State.reset.buf := Memory.wf_nil

theorem Memory.erase_wf {m : Memory} (a : Nat) (h : Memory.wf m) : Memory.wf (Memory.erase m a) :=
  ⟨h.1.filter _, fun c hc => h.2 c (List.mem_of_mem_filter hc)⟩

theorem Memory.mem_insert {a : Nat} {b : Byte} {m : Memory} {c : Host.Cell} :
    c ∈ Memory.insert a b m ↔ c = (a, b) ∨ c ∈ m := by
  induction m with
  | nil => simp [Memory.insert]
  | cons d m ih =>
    obtain ⟨k, v⟩ := d
    unfold Memory.insert
    split
    · simp
    · simp only [List.mem_cons, ih]; tauto

theorem Memory.insert_wf {m : Memory} {a : Nat} {b : Byte} (h : Memory.wf m) (ha : a < Config.bufSize)
    (hb : b ≠ Memory.unlisted a) (hfree : ∀ c ∈ m, c.1 ≠ a) : Memory.wf (Memory.insert a b m) := by
  refine ⟨?_, ?_⟩
  · have hp := h.1
    clear h
    induction m with
    | nil => simp [Memory.insert]
    | cons d m ih =>
      obtain ⟨k, v⟩ := d
      have hk : k ≠ a := hfree (k, v) (by simp)
      rw [List.pairwise_cons] at hp
      unfold Memory.insert
      split
      · next hlt =>
        rw [List.pairwise_cons, List.pairwise_cons]
        refine ⟨fun c hc => ?_, hp⟩
        rcases List.mem_cons.1 hc with rfl | hc
        · exact hlt
        · exact lt_trans hlt (hp.1 c hc)
      · next hge =>
        rw [List.pairwise_cons]
        refine ⟨fun c hc => ?_, ih (fun c hc => hfree c (by simp [hc])) hp.2⟩
        rcases Memory.mem_insert.1 hc with rfl | hc
        · simp only; omega
        · exact hp.1 c hc
  · intro c hc
    rcases Memory.mem_insert.1 hc with rfl | hc
    · exact ⟨ha, hb⟩
    · exact h.2 c hc

/-- A write inside the buffer keeps the canonical form. -/
theorem Memory.write_wf {m : Memory} {a : Nat} (b : Byte) (h : Memory.wf m) (ha : a < Config.bufSize) :
    Memory.wf (Memory.write m a b) := by
  unfold Memory.write
  split
  · exact Memory.erase_wf a h
  · next hb => exact Memory.insert_wf (Memory.erase_wf a h) ha hb (by simp [Memory.erase])

/-- Writing a run of bytes inside the buffer keeps the canonical form. -/
theorem Memory.writeList_wf {m : Memory} {a : Nat} {bs : List Byte} (h : Memory.wf m)
    (ha : a + bs.length ≤ Config.bufSize) : Memory.wf (Memory.writeList m a bs) := by
  induction bs generalizing m a with
  | nil => exact h
  | cons b bs ih =>
    simp only [List.length_cons] at ha
    exact ih (Memory.write_wf b h (by omega)) (by omega)

/-- One byte after a run of writes. -/
theorem Memory.read_writeList (m : Memory) (a x : Nat) (bs : List Byte) :
    Memory.read (Memory.writeList m a bs) x =
      if a ≤ x ∧ x < a + bs.length then bs.getD (x - a) 0 else Memory.read m x := by
  induction bs generalizing m a with
  | nil => simp [Memory.writeList]
  | cons b bs ih =>
    rw [Memory.writeList, ih, Memory.read_write]
    simp only [List.length_cons]
    by_cases h1 : x = a
    · subst h1; simp
    · by_cases h2 : a + 1 ≤ x ∧ x < a + 1 + bs.length
      · rw [if_pos h2, if_pos (by omega), show x - a = (x - (a + 1)) + 1 by omega]; simp
      · rw [if_neg h2, if_neg h1, if_neg (by omega)]

@[simp] theorem Memory.slice_length (m : Memory) (a n : Nat) : (Memory.slice m a n).length = n := by
  simp [Memory.slice]

@[simp] theorem Memory.slice_zero (m : Memory) (a : Nat) : Memory.slice m a 0 = [] := rfl

theorem Memory.slice_succ (m : Memory) (a n : Nat) :
    Memory.slice m a (n + 1) = Memory.slice m a n ++ [Memory.read m (a + n)] := by
  simp [Memory.slice, List.range'_concat]

theorem Memory.slice_cons (m : Memory) (a n : Nat) :
    Memory.slice m a (n + 1) = Memory.read m a :: Memory.slice m (a + 1) n := by
  simp [Memory.slice, List.range'_succ]

theorem Memory.slice_append (m : Memory) (a n k : Nat) :
    Memory.slice m a (n + k) = Memory.slice m a n ++ Memory.slice m (a + n) k := by
  simp [Memory.slice, ← List.map_append]

theorem Memory.slice_drop (m : Memory) (a n k : Nat) :
    (Memory.slice m a n).drop k = Memory.slice m (a + k) (n - k) := by
  induction k generalizing a n with
  | zero => simp
  | succ k ih =>
    cases n with
    | zero => simp [Memory.slice]
    | succ n =>
      rw [Memory.slice_cons, List.drop_succ_cons, ih]
      congr 1 <;> omega

theorem Memory.slice_congr {m m' : Memory} {a n : Nat}
    (h : ∀ x, a ≤ x → x < a + n → Memory.read m x = Memory.read m' x) :
    Memory.slice m a n = Memory.slice m' a n := by
  unfold Memory.slice
  refine List.map_congr_left fun x hx => ?_
  rw [List.mem_range'_1] at hx
  exact h x hx.1 hx.2

/-- A slice does not see a write outside it. -/
theorem Memory.slice_write_outside (m : Memory) {a n x : Nat} (b : Byte) (h : x < a ∨ a + n ≤ x) :
    Memory.slice (Memory.write m x b) a n = Memory.slice m a n :=
  Memory.slice_congr fun y h1 h2 => Memory.read_write_ne m b (by omega)

/-- The slice that ends with the byte just written. -/
theorem Memory.slice_write_last (m : Memory) (a n : Nat) (b : Byte) :
    Memory.slice (Memory.write m (a + n) b) a (n + 1) = Memory.slice m a n ++ [b] := by
  rw [Memory.slice_succ, Memory.slice_write_outside _ _ (Or.inr le_rfl), Memory.read_write_same]

end Sys2Proof.Machine
end

