-- ==== Sys2Proof/Laws/State.lean ====
section
/-! SUPPORT. One lemma per field per update of State, true by rfl, so that no proof unfolds a record update. -/

namespace Sys2Proof.Machine

@[simp] theorem State.finish_len (s : State) (res : Port64) (flag : Bool) : (s.finish res flag).len = s.len := rfl
@[simp] theorem State.finish_remainingObjects (s : State) (res : Port64) (flag : Bool) : (s.finish res flag).remainingObjects = s.remainingObjects := rfl
@[simp] theorem State.finish_remainingBytes (s : State) (res : Port64) (flag : Bool) : (s.finish res flag).remainingBytes = s.remainingBytes := rfl
@[simp] theorem State.finish_crcHeader (s : State) (res : Port64) (flag : Bool) : (s.finish res flag).crcHeader = s.crcHeader := rfl
@[simp] theorem State.finish_crcBody (s : State) (res : Port64) (flag : Bool) : (s.finish res flag).crcBody = s.crcBody := rfl
@[simp] theorem State.finish_buf (s : State) (res : Port64) (flag : Bool) : (s.finish res flag).buf = s.buf := rfl
@[simp] theorem State.finish_msg (s : State) (res : Port64) (flag : Bool) : (s.finish res flag).msg = s.msg := rfl
@[simp] theorem State.finish_msgValid (s : State) (res : Port64) (flag : Bool) : (s.finish res flag).msgValid = s.msgValid := rfl
@[simp] theorem State.finish_crcAcc (s : State) (res : Port64) (flag : Bool) : (s.finish res flag).crcAcc = s.crcAcc := rfl
@[simp] theorem State.finish_result (s : State) (res : Port64) (flag : Bool) : (s.finish res flag).result = some { res := res, flag := flag } := rfl
@[simp] theorem State.finish_ghostReject (s : State) (res : Port64) (flag : Bool) : (s.finish res flag).ghostReject = none := rfl
@[simp] theorem State.finish_issue (s : State) (res : Port64) (flag : Bool) : (s.finish res flag).issue = s.issue := rfl
@[simp] theorem State.finish_draws (s : State) (res : Port64) (flag : Bool) : (s.finish res flag).draws = s.draws := rfl

@[simp] theorem State.reject_len (s : State) (c : RejectCause) : (s.reject c).len = 0 := rfl
@[simp] theorem State.reject_remainingObjects (s : State) (c : RejectCause) : (s.reject c).remainingObjects = s.remainingObjects := rfl
@[simp] theorem State.reject_remainingBytes (s : State) (c : RejectCause) : (s.reject c).remainingBytes = s.remainingBytes := rfl
@[simp] theorem State.reject_crcHeader (s : State) (c : RejectCause) : (s.reject c).crcHeader = s.crcHeader := rfl
@[simp] theorem State.reject_crcBody (s : State) (c : RejectCause) : (s.reject c).crcBody = s.crcBody := rfl
@[simp] theorem State.reject_buf (s : State) (c : RejectCause) : (s.reject c).buf = s.buf := rfl
@[simp] theorem State.reject_msg (s : State) (c : RejectCause) : (s.reject c).msg = s.msg := rfl
@[simp] theorem State.reject_msgValid (s : State) (c : RejectCause) : (s.reject c).msgValid = false := rfl
@[simp] theorem State.reject_crcAcc (s : State) (c : RejectCause) : (s.reject c).crcAcc = s.crcAcc := rfl
@[simp] theorem State.reject_result (s : State) (c : RejectCause) : (s.reject c).result = some { res := 0, flag := false } := rfl
@[simp] theorem State.reject_ghostReject (s : State) (c : RejectCause) : (s.reject c).ghostReject = some c := rfl
@[simp] theorem State.reject_issue (s : State) (c : RejectCause) : (s.reject c).issue = s.issue := rfl
@[simp] theorem State.reject_draws (s : State) (c : RejectCause) : (s.reject c).draws = s.draws := rfl

@[simp] theorem State.endGrowing_len (s : State) : s.endGrowing.len = s.len := rfl
@[simp] theorem State.endGrowing_remainingObjects (s : State) : s.endGrowing.remainingObjects = s.remainingObjects := rfl
@[simp] theorem State.endGrowing_remainingBytes (s : State) : s.endGrowing.remainingBytes = s.remainingBytes := rfl
@[simp] theorem State.endGrowing_crcHeader (s : State) : s.endGrowing.crcHeader = s.crcHeader := rfl
@[simp] theorem State.endGrowing_crcBody (s : State) : s.endGrowing.crcBody = s.crcBody := rfl
@[simp] theorem State.endGrowing_buf (s : State) : s.endGrowing.buf = s.buf := rfl
@[simp] theorem State.endGrowing_msg (s : State) : s.endGrowing.msg = s.msg := rfl
@[simp] theorem State.endGrowing_msgValid (s : State) : s.endGrowing.msgValid = false := rfl
@[simp] theorem State.endGrowing_crcAcc (s : State) : s.endGrowing.crcAcc = s.crcAcc := rfl
@[simp] theorem State.endGrowing_result (s : State) : s.endGrowing.result = some { res := 0, flag := false } := rfl
@[simp] theorem State.endGrowing_ghostReject (s : State) : s.endGrowing.ghostReject = none := rfl
@[simp] theorem State.endGrowing_issue (s : State) : s.endGrowing.issue = s.issue := rfl
@[simp] theorem State.endGrowing_draws (s : State) : s.endGrowing.draws = s.draws := rfl

@[simp] theorem State.endReady_len (s : State) : s.endReady.len = 0 := rfl
@[simp] theorem State.endReady_remainingObjects (s : State) : s.endReady.remainingObjects = s.remainingObjects := rfl
@[simp] theorem State.endReady_remainingBytes (s : State) : s.endReady.remainingBytes = s.remainingBytes := rfl
@[simp] theorem State.endReady_crcHeader (s : State) : s.endReady.crcHeader = s.crcHeader := rfl
@[simp] theorem State.endReady_crcBody (s : State) : s.endReady.crcBody = s.crcBody := rfl
@[simp] theorem State.endReady_buf (s : State) : s.endReady.buf = s.buf := rfl
@[simp] theorem State.endReady_msg (s : State) : s.endReady.msg = s.msg := rfl
@[simp] theorem State.endReady_msgValid (s : State) : s.endReady.msgValid = true := rfl
@[simp] theorem State.endReady_crcAcc (s : State) : s.endReady.crcAcc = s.crcAcc := rfl
@[simp] theorem State.endReady_result (s : State) : s.endReady.result = some { res := 0, flag := true } := rfl
@[simp] theorem State.endReady_ghostReject (s : State) : s.endReady.ghostReject = none := rfl
@[simp] theorem State.endReady_issue (s : State) : s.endReady.issue = s.issue := rfl
@[simp] theorem State.endReady_draws (s : State) : s.endReady.draws = s.draws := rfl

@[simp] theorem State.present_len (s : State) (w : OpWord) : (s.present w).len = s.len := rfl
@[simp] theorem State.present_remainingObjects (s : State) (w : OpWord) : (s.present w).remainingObjects = s.remainingObjects := rfl
@[simp] theorem State.present_remainingBytes (s : State) (w : OpWord) : (s.present w).remainingBytes = s.remainingBytes := rfl
@[simp] theorem State.present_crcHeader (s : State) (w : OpWord) : (s.present w).crcHeader = s.crcHeader := rfl
@[simp] theorem State.present_crcBody (s : State) (w : OpWord) : (s.present w).crcBody = s.crcBody := rfl
@[simp] theorem State.present_buf (s : State) (w : OpWord) : (s.present w).buf = s.buf := rfl
@[simp] theorem State.present_msg (s : State) (w : OpWord) : (s.present w).msg = s.msg := rfl
@[simp] theorem State.present_msgValid (s : State) (w : OpWord) : (s.present w).msgValid = s.msgValid := rfl
@[simp] theorem State.present_crcAcc (s : State) (w : OpWord) : (s.present w).crcAcc = s.crcAcc := rfl
@[simp] theorem State.present_result (s : State) (w : OpWord) : (s.present w).result = s.result := rfl
@[simp] theorem State.present_ghostReject (s : State) (w : OpWord) : (s.present w).ghostReject = s.ghostReject := rfl
@[simp] theorem State.present_issue (s : State) (w : OpWord) : (s.present w).issue = .op w :: s.issue := rfl
@[simp] theorem State.present_draws (s : State) (w : OpWord) : (s.present w).draws = s.draws := rfl

@[simp] theorem State.bePackOp_len {w : Nat} (s : State) (n : Nat) (v : BitVec w) : (s.bePackOp n v).len = s.len := rfl
@[simp] theorem State.bePackOp_remainingObjects {w : Nat} (s : State) (n : Nat) (v : BitVec w) : (s.bePackOp n v).remainingObjects = s.remainingObjects := rfl
@[simp] theorem State.bePackOp_remainingBytes {w : Nat} (s : State) (n : Nat) (v : BitVec w) : (s.bePackOp n v).remainingBytes = s.remainingBytes := rfl
@[simp] theorem State.bePackOp_crcHeader {w : Nat} (s : State) (n : Nat) (v : BitVec w) : (s.bePackOp n v).crcHeader = s.crcHeader := rfl
@[simp] theorem State.bePackOp_crcBody {w : Nat} (s : State) (n : Nat) (v : BitVec w) : (s.bePackOp n v).crcBody = s.crcBody := rfl
@[simp] theorem State.bePackOp_buf {w : Nat} (s : State) (n : Nat) (v : BitVec w) : (s.bePackOp n v).buf = s.buf := rfl
@[simp] theorem State.bePackOp_msg {w : Nat} (s : State) (n : Nat) (v : BitVec w) : (s.bePackOp n v).msg = s.msg := rfl
@[simp] theorem State.bePackOp_msgValid {w : Nat} (s : State) (n : Nat) (v : BitVec w) : (s.bePackOp n v).msgValid = s.msgValid := rfl
@[simp] theorem State.bePackOp_crcAcc {w : Nat} (s : State) (n : Nat) (v : BitVec w) : (s.bePackOp n v).crcAcc = s.crcAcc := rfl
@[simp] theorem State.bePackOp_issue {w : Nat} (s : State) (n : Nat) (v : BitVec w) : (s.bePackOp n v).issue = s.issue := rfl
@[simp] theorem State.bePackOp_draws {w : Nat} (s : State) (n : Nat) (v : BitVec w) : (s.bePackOp n v).draws = s.draws := rfl

@[simp] theorem State.beUnpackOp_len {w : Nat} (s : State) (n : Nat) (v : BitVec w) : (s.beUnpackOp n v).len = s.len := rfl
@[simp] theorem State.beUnpackOp_remainingObjects {w : Nat} (s : State) (n : Nat) (v : BitVec w) : (s.beUnpackOp n v).remainingObjects = s.remainingObjects := rfl
@[simp] theorem State.beUnpackOp_remainingBytes {w : Nat} (s : State) (n : Nat) (v : BitVec w) : (s.beUnpackOp n v).remainingBytes = s.remainingBytes := rfl
@[simp] theorem State.beUnpackOp_crcHeader {w : Nat} (s : State) (n : Nat) (v : BitVec w) : (s.beUnpackOp n v).crcHeader = s.crcHeader := rfl
@[simp] theorem State.beUnpackOp_crcBody {w : Nat} (s : State) (n : Nat) (v : BitVec w) : (s.beUnpackOp n v).crcBody = s.crcBody := rfl
@[simp] theorem State.beUnpackOp_buf {w : Nat} (s : State) (n : Nat) (v : BitVec w) : (s.beUnpackOp n v).buf = s.buf := rfl
@[simp] theorem State.beUnpackOp_msg {w : Nat} (s : State) (n : Nat) (v : BitVec w) : (s.beUnpackOp n v).msg = s.msg := rfl
@[simp] theorem State.beUnpackOp_msgValid {w : Nat} (s : State) (n : Nat) (v : BitVec w) : (s.beUnpackOp n v).msgValid = s.msgValid := rfl
@[simp] theorem State.beUnpackOp_crcAcc {w : Nat} (s : State) (n : Nat) (v : BitVec w) : (s.beUnpackOp n v).crcAcc = s.crcAcc := rfl
@[simp] theorem State.beUnpackOp_issue {w : Nat} (s : State) (n : Nat) (v : BitVec w) : (s.beUnpackOp n v).issue = s.issue := rfl
@[simp] theorem State.beUnpackOp_draws {w : Nat} (s : State) (n : Nat) (v : BitVec w) : (s.beUnpackOp n v).draws = s.draws := rfl

@[simp] theorem State.readStaged_len (s : State) (d : Bool) (v : Port64) : (s.readStaged d v).len = s.len := by
  cases d <;> rfl
@[simp] theorem State.readStaged_remainingObjects (s : State) (d : Bool) (v : Port64) : (s.readStaged d v).remainingObjects = s.remainingObjects := by
  cases d <;> rfl
@[simp] theorem State.readStaged_remainingBytes (s : State) (d : Bool) (v : Port64) : (s.readStaged d v).remainingBytes = s.remainingBytes := by
  cases d <;> rfl
@[simp] theorem State.readStaged_crcHeader (s : State) (d : Bool) (v : Port64) : (s.readStaged d v).crcHeader = s.crcHeader := by
  cases d <;> rfl
@[simp] theorem State.readStaged_crcBody (s : State) (d : Bool) (v : Port64) : (s.readStaged d v).crcBody = s.crcBody := by
  cases d <;> rfl
@[simp] theorem State.readStaged_buf (s : State) (d : Bool) (v : Port64) : (s.readStaged d v).buf = s.buf := by
  cases d <;> rfl
@[simp] theorem State.readStaged_msg (s : State) (d : Bool) (v : Port64) : (s.readStaged d v).msg = s.msg := by
  cases d <;> rfl
@[simp] theorem State.readStaged_msgValid (s : State) (d : Bool) (v : Port64) : (s.readStaged d v).msgValid = s.msgValid := by
  cases d <;> rfl
@[simp] theorem State.readStaged_crcAcc (s : State) (d : Bool) (v : Port64) : (s.readStaged d v).crcAcc = s.crcAcc := by
  cases d <;> rfl
@[simp] theorem State.readStaged_issue (s : State) (d : Bool) (v : Port64) : (s.readStaged d v).issue = s.issue := by
  cases d <;> rfl
@[simp] theorem State.readStaged_ghostReject (s : State) (d : Bool) (v : Port64) :
    (s.readStaged d v).ghostReject = none := by
  cases d <;> rfl
@[simp] theorem State.readStaged_true (s : State) (v : Port64) : s.readStaged true v = s.finish v false := rfl
@[simp] theorem State.readStaged_false (s : State) (v : Port64) :
    s.readStaged false v = { s with draws := s.draws + 1 }.finish (Config.staleRead s.draws) false := rfl

/-- The report of an operation, by the way it ended. -/
@[simp] theorem State.report_flag_finish_result (s : State) (res : Port64) (flag : Bool) :
    ((s.finish res flag).result.map Result.flag).getD false = flag := rfl

end Sys2Proof.Machine
end

