-- ==== Sys2Proof/Laws/Sync.lean ====
section
/-! SUPPORT. What the shared operations of the synchronizer can do, said once: `syncStep` always ends in a next
state, and `syncNext` is that state in closed form. Proofs cite `syncStep_eq`, the arms' frame and the cases
below and never unfold the phases. -/

namespace Sys2Proof.Machine

@[simp] theorem andThen_next (s : State) (k : State → Out) : andThen (.next s) k = k s := rfl

theorem andThen_eq_next {o : Out} {k : State → Out} {t : State} (h : andThen o k = .next t) :
    ∃ s, o = .next s ∧ k s = .next t := by
  cases o with
  | next s => exact ⟨s, rfl, h⟩
  | fault r => cases h
  | refused r => cases h

theorem memWrite_eq {s : State} {a : Nat} (b : Byte) (h : a < Config.bufSize) :
    memWrite s a b = .next { s with buf := Memory.write s.buf a b } := by simp [memWrite, h]

theorem memRead_eq {s : State} {a n : Nat} (k : List Byte → Out) (h : a + n ≤ Config.bufSize) :
    memRead s a n k = k (Memory.slice s.buf a n) := by simp [memRead, h]

/-! ## The guard (R141) -/

theorem overSizeGuard_len (s : State) :
    (overSizeGuard s).len = if 247 ≤ s.len.toNat then 0 else s.len := by
  unfold overSizeGuard Config.bufSize; split <;> rfl

theorem overSizeGuard_of_lt {s : State} (h : s.len.toNat < 247) : overSizeGuard s = s := by
  unfold overSizeGuard Config.bufSize; rw [if_neg (by omega)]

theorem overSizeGuard_of_ge {s : State} (h : 247 ≤ s.len.toNat) : overSizeGuard s = { s with len := 0 } := by
  unfold overSizeGuard Config.bufSize; rw [if_pos h]

theorem overSizeGuard_lt (s : State) : (overSizeGuard s).len.toNat < 247 := by
  rw [overSizeGuard_len]; split
  · decide
  · omega

/-- The guard writes `len` only. -/
theorem overSizeGuard_frame (s : State) : overSizeGuard s = { s with len := (overSizeGuard s).len } := by
  unfold overSizeGuard; split <;> rfl

/-! ## The arms (R142 to R146) -/

/-- The state an arm leaves, whichever way it ends. -/
def ArmEnd.state : ArmEnd → State
  | .store s => s
  | .raise _ s => s

/-- What no arm writes. -/
structure ArmFrame (s t : State) : Prop where
  len : t.len = s.len
  buf : t.buf = s.buf
  msg : t.msg = s.msg
  msgValid : t.msgValid = s.msgValid
  crcAcc : t.crcAcc = s.crcAcc
  result : t.result = s.result
  ghostReject : t.ghostReject = s.ghostReject
  issue : t.issue = s.issue
  draws : t.draws = s.draws

theorem ArmFrame.refl (s : State) : ArmFrame s s := ⟨rfl, rfl, rfl, rfl, rfl, rfl, rfl, rfl, rfl⟩

/-- The arms write the counters and the CRC registers only. -/
theorem dispatchArm_frame (b : Byte) (s : State) : ArmFrame s (dispatchArm b s).state := by
  unfold dispatchArm armHdr0 armHdr1 armCrcField armCount armBody
  split_ifs <;> first
    | exact ArmFrame.refl s
    | exact ⟨rfl, rfl, rfl, rfl, rfl, rfl, rfl, rfl, rfl⟩
    | (dsimp only; split_ifs <;> exact ⟨rfl, rfl, rfl, rfl, rfl, rfl, rfl, rfl, rfl⟩)
    | (cases decodeTag b <;> exact ⟨rfl, rfl, rfl, rfl, rfl, rfl, rfl, rfl, rfl⟩)

theorem dispatchArm_hdr0 {b : Byte} {s : State} (h : s.len.toNat = 0) : dispatchArm b s = armHdr0 b s := by
  simp [dispatchArm, h]

theorem dispatchArm_hdr1 {b : Byte} {s : State} (h : s.len.toNat = 1) : dispatchArm b s = armHdr1 b s := by
  simp [dispatchArm, h]

theorem dispatchArm_crcField {b : Byte} {s : State} (h : 2 ≤ s.len.toNat) (h' : s.len.toNat ≤ 5) :
    dispatchArm b s = armCrcField b s := by
  unfold dispatchArm; rw [if_neg (by omega), if_neg (by omega), if_pos h']

theorem dispatchArm_count {b : Byte} {s : State} (h : s.len.toNat = 6) : dispatchArm b s = armCount b s := by
  simp [dispatchArm, h]

theorem dispatchArm_body {b : Byte} {s : State} (h : 7 ≤ s.len.toNat) : dispatchArm b s = armBody b s := by
  unfold dispatchArm
  rw [if_neg (by omega), if_neg (by omega), if_neg (by omega), if_neg (by omega)]

/-! ## The store and the completion (R147 to R149) -/

/-- `MemWrite(len, 1, b); len <- len + 1`. -/
def stored (b : Byte) (s : State) : State :=
  { s with buf := Memory.write s.buf s.len.toNat b, len := s.len + 1 }

theorem storeByte_eq {s : State} (b : Byte) (h : s.len.toNat < 247) : storeByte b s = .next (stored b s) := by
  simp [storeByte, memWrite_eq b (show s.len.toNat < Config.bufSize from h), stored]

theorem stored_len {s : State} (b : Byte) (h : s.len.toNat < 247) :
    (stored b s).len.toNat = s.len.toNat + 1 := by
  simp only [stored, BitVec.toNat_add]
  rw [Nat.mod_eq_of_lt (by simp; omega)]
  simp

/-- The state a parsed completion leaves (R149). -/
def parsedEnd (s : State) : Message × Bool → State
  | (m, true) => { s with msg := m }.endReady
  | (m, false) => { s with msg := m }.reject .body

/-- The end of a step that stored its byte (R147 to R149), in closed form. -/
def afterStoreNext (s : State) : State :=
  if s.complete then
    if s.crcMatches then parsedEnd s (bodyParse (Memory.slice s.buf 0 s.len.toNat) s.msg) else s.reject .crc
  else s.endGrowing

theorem afterStore_eq {s : State} (h : s.len.toNat ≤ 247) : afterStore s = .next (afterStoreNext s) := by
  unfold afterStore afterStoreNext
  split
  · split
    · rw [finishFrame, memRead_eq _ (show 0 + s.len.toNat ≤ Config.bufSize by simpa [Config.bufSize] using h)]
      rcases bodyParse (Memory.slice s.buf 0 s.len.toNat) s.msg with ⟨m, ok⟩
      cases ok <;> rfl
    · rfl
  · rfl

/-- The state after the synchronizer's step, in closed form. -/
def syncNext (b : Byte) (s : State) : State :=
  match dispatchArm b (overSizeGuard s) with
  | .raise cause t => t.reject cause
  | .store t => afterStoreNext (stored b t)

/-- The synchronizer's step always ends in a next state: no access is outside the buffer (R58). -/
theorem syncStep_eq (b : Byte) (s : State) : syncStep b s = .next (syncNext b s) := by
  unfold syncStep syncNext
  have hlt := overSizeGuard_lt s
  have hf := dispatchArm_frame b (overSizeGuard s)
  cases hd : dispatchArm b (overSizeGuard s) with
  | raise cause t => rfl
  | store t =>
    rw [hd] at hf
    have ht : t.len.toNat < 247 := by rw [show t.len = (overSizeGuard s).len from hf.len]; exact hlt
    simp only [storeByte_eq b ht, andThen_next]
    exact afterStore_eq (by rw [stored_len b ht]; omega)

@[simp] theorem exec_syncPut (b : Byte) (s : State) : exec (.syncPut b) s = .next (syncNext b s) := syncStep_eq b s

/-- A wire row does what `SYNC.PUT` of its byte does. -/
theorem exec_wire {i : Instr} {r : WireRole} {b : Byte} (h : encode i = .wire r b) (s : State) :
    exec i s = .next (syncNext b s) := by
  rw [← syncStep_eq]
  cases i <;> simp only [encode, reduceCtorEq, Code.wire.injEq] at h <;> obtain ⟨-, rfl⟩ := h <;> rfl

/-- The ways a step on a wire byte can end: an arm rejects; the byte is stored and the candidate grows; the
frame is complete and its CRC is wrong; it parses; it does not. -/
theorem syncNext_cases (b : Byte) (s : State) :
    (∃ cause t, dispatchArm b (overSizeGuard s) = .raise cause t ∧ syncNext b s = t.reject cause) ∨
    (∃ t, dispatchArm b (overSizeGuard s) = .store t ∧
      (((stored b t).complete = false ∧ syncNext b s = (stored b t).endGrowing) ∨
       ((stored b t).complete = true ∧ (stored b t).crcMatches = false ∧
          syncNext b s = (stored b t).reject .crc) ∨
       ((stored b t).complete = true ∧ (stored b t).crcMatches = true ∧
          syncNext b s = parsedEnd (stored b t)
            (bodyParse (Memory.slice (stored b t).buf 0 (stored b t).len.toNat) t.msg)))) := by
  unfold syncNext
  cases hd : dispatchArm b (overSizeGuard s) with
  | raise cause t => exact .inl ⟨cause, t, rfl, rfl⟩
  | store t =>
    refine .inr ⟨t, rfl, ?_⟩
    unfold afterStoreNext
    cases hc : (stored b t).complete with
    | false => exact .inl ⟨rfl, by simp [hc]⟩
    | true =>
      cases hm : (stored b t).crcMatches with
      | false => exact .inr (.inl ⟨rfl, rfl, by simp [hc, hm]⟩)
      | true => exact .inr (.inr ⟨rfl, rfl, by simp only [hc, hm, if_true]; rfl⟩)

/-! ## The other operations -/

/-- An indexed read with a slot index that exists. -/
theorem readSlot_eq {i : Nibble} (h : i ≠ 15) (f : Slot → Port64) (s : State) :
    readSlot i f s = .next (s.readStaged (s.slotDefined i) (f (s.msg.slot i.toNat))) := by
  have h' : slotIndexOk i = true := by simpa [slotIndexOk] using h
  simp [readSlot, h']

theorem performReset_buf_wf {junk : ResetJunk} {s t : State} (h : performReset junk s = .next t) :
    Memory.wf t.buf := by
  cases h
  exact Memory.writeList_wf Memory.wf_nil (by simp [Config.bufSize])

end Sys2Proof.Machine
end

