-- ==== Sys2Proof/Laws/Body.lean ====
section
/-! SUPPORT. What the body parser and the big-endian functions can do, said once: the parser succeeds exactly when
it finds the declared objects and nothing after them, and it writes the slots it passed. -/

namespace Sys2Proof.Machine

@[simp] theorem bePack_length {w : Nat} (n : Nat) (v : BitVec w) : (bePack n v).length = n := by simp [bePack]

@[simp] theorem lanes_length {w : Nat} (n : Nat) (v : BitVec w) : (lanes n v).length = n := by simp [lanes]

@[simp] theorem Message.setSlot_len (m : Message) (k : Nat) (o : Slot) : (m.setSlot k o).len = m.len := rfl

theorem Message.objects_length (m : Message) : m.objects.length = m.len.toNat := by
  have := m.len.isLt
  simp only [Message.objects, List.length_take, Vector.length_toList]
  omega

/-- Nothing to come: the parse succeeds iff no byte is left (R170, line 5). -/
theorem parseObjects_zero (k : Nat) (rest : List Byte) (m : Message) :
    parseObjects 0 k rest m = (m, rest.isEmpty) := rfl

/-- One object (R170, line 4): a success comes from a known tag, its whole payload, and a success on the rest. -/
theorem parseObjects_succ_ok {n k : Nat} {bs : List Byte} {m m' : Message}
    (h : parseObjects (n + 1) k bs m = (m', true)) :
    ∃ t rest, bs = t.byte :: rest ∧ payLen t ≤ rest.length ∧
      parseObjects n (k + 1) (rest.drop (payLen t))
        (m.setSlot k (decodeObject t (rest.take (payLen t)))) = (m', true) := by
  cases bs with
  | nil => simp [parseObjects] at h
  | cons b rest =>
    simp only [parseObjects] at h
    cases hd : decodeTag b with
    | none => simp [hd] at h
    | some t =>
      simp only [hd] at h
      split at h
      · simp at h
      · next hlen => exact ⟨t, rest, by rw [byte_of_decodeTag hd], by omega, h⟩

/-- One object found (R170, line 4): the parser goes on after it. -/
theorem parseObjects_object (n k : Nat) (t : Tag) (payload rest : List Byte) (m : Message)
    (h : payload.length = payLen t) :
    parseObjects (n + 1) k (t.byte :: payload ++ rest) m =
      parseObjects n (k + 1) rest (m.setSlot k (decodeObject t payload)) := by
  simp only [List.cons_append, parseObjects, decodeTag_byte]
  rw [if_neg (by simp [h])]
  simp [← h]

/-- The parser writes no slot length: `msg.len` stays what line 2 wrote. -/
theorem parseObjects_len (n k : Nat) (bs : List Byte) (m : Message) :
    (parseObjects n k bs m).1.len = m.len := by
  induction n generalizing k bs m with
  | zero => rfl
  | succ n ih =>
    cases bs with
    | nil => rfl
    | cons b rest =>
      simp only [parseObjects]
      cases decodeTag b with
      | none => rfl
      | some t =>
        simp only
        split
        · rfl
        · rw [ih]; rfl

/-- The parser on a count byte in range (R170, lines 1 to 3). -/
theorem bodyParse_eq {frame rest : List Byte} {b : Byte} (m : Message) (h : frame.drop 6 = b :: rest)
    (hlo : 0 ≤ countOf b) (hhi : countOf b ≤ 15) :
    bodyParse frame m =
      parseObjects (countOf b).toNat 0 rest { m with len := BitVec.ofInt 4 (countOf b) } := by
  simp only [bodyParse, h]
  rw [if_neg (by omega), if_neg (by omega)]

/-- A successful parse had a count byte in range. -/
theorem bodyParse_ok {frame : List Byte} {m m' : Message} (h : bodyParse frame m = (m', true)) :
    ∃ b rest, frame.drop 6 = b :: rest ∧ 0 ≤ countOf b ∧ countOf b ≤ 15 ∧
      parseObjects (countOf b).toNat 0 rest { m with len := BitVec.ofInt 4 (countOf b) } = (m', true) := by
  unfold bodyParse at h
  cases hd : frame.drop 6 with
  | nil => simp [hd] at h
  | cons b rest =>
    simp only [hd] at h
    split at h
    · simp at h
    · split at h
      · simp at h
      · exact ⟨b, rest, rfl, by omega, by omega, h⟩

end Sys2Proof.Machine
end

