-- ==== Sys2Proof/Laws/PerInstr.lean ====
section
/-! SUPPORT. Statements about every instruction as syntax, one lemma per constructor. `RowMatches`: the encoding
of an instruction matches the mask and match of its own row of spec/opcode_table.json (30_encoding.md R73). -/

namespace Sys2Proof

/-- The mask of a word, field by field. -/
theorem opWord_and (o j i a o' j' i' a') :
    opWord o j i a &&& opWord o' j' i' a' = opWord (o &&& o') (j &&& j') (i &&& i') (a &&& a') := by
  refine (BitVec.and_append (x₁ := o ++ j ++ i) (x₂ := o' ++ j' ++ i')).trans ?_
  rw [BitVec.and_append, BitVec.and_append]
  rfl

/-- Bits above the operand's width are zero. -/
theorem setWidth_and_mask {n : Nat} (v : BitVec n) (m : Port64) (h : ∀ k, k < n → m.getLsbD k = false) :
    v.setWidth 64 &&& m = 0 := by
  apply BitVec.eq_of_getLsbD_eq
  intro k hk
  simp only [BitVec.getLsbD_and, BitVec.getLsbD_setWidth, hk, decide_true, Bool.true_and]
  by_cases hn : k < n
  · simp [h k hn]
  · simp [BitVec.getLsbD_of_ge _ _ (Nat.le_of_not_lt hn)]

namespace Laws.RowMatches

/-- The encoding of the instruction matches its row of the opcode table. -/
def Statement (i : Instr) : Prop := (encode i).bits &&& i.row.mask = i.row.pattern

/-- The one argument for the operations that read `arg[n−1:0]`. -/
theorem arg_row {n : Nat} (o : BitVec 8) (v : BitVec n) (m : Port64) (h : ∀ k, k < n → m.getLsbD k = false) :
    opWordArg o v &&& opWord 0xFF 0xF 0xF m = opWord o 0 0 0 := by
  rw [opWordArg, opWord_and, setWidth_and_mask v m h]
  congr 1
  exact BitVec.and_allOnes

theorem nop : Statement (.nop) := by
  unfold Statement; decide

theorem crcSeed (seed : Crc) : Statement (.crcSeed seed) := arg_row 0x10 seed 0xFFFFFFFF00000000 (by decide)

theorem crcByte (b : Byte) : Statement (.crcByte b) := arg_row 0x11 b 0xFFFFFFFFFFFFFF00 (by decide)

theorem crcRead : Statement (.crcRead) := by
  unfold Statement; decide

theorem syncPut (b : Byte) : Statement (.syncPut b) := arg_row 0x20 b 0xFFFFFFFFFFFFFF00 (by decide)

theorem msgLen : Statement (.msgLen) := by
  unfold Statement; decide

theorem msgKind (i : Nibble) : Statement (.msgKind i) := by
  revert i; unfold Statement; decide

theorem msgVal (i : Nibble) : Statement (.msgVal i) := by
  revert i; unfold Statement; decide

theorem msgSlen (i : Nibble) : Statement (.msgSlen i) := by
  revert i; unfold Statement; decide

theorem msgStrb (i j : Nibble) : Statement (.msgStrb i j) := by
  revert i j; unfold Statement; decide

theorem bePack8 (v : BitVec 8) : Statement (.bePack8 v) := arg_row 0x40 v 0xFFFFFFFFFFFFFF00 (by decide)

theorem bePack16 (v : BitVec 16) : Statement (.bePack16 v) := arg_row 0x41 v 0xFFFFFFFFFFFF0000 (by decide)

theorem bePack32 (v : BitVec 32) : Statement (.bePack32 v) := arg_row 0x42 v 0xFFFFFFFF00000000 (by decide)

theorem bePack64 (v : BitVec 64) : Statement (.bePack64 v) := arg_row 0x43 v 0 (by decide)

theorem beUnpack8 (lanes : BitVec 8) : Statement (.beUnpack8 lanes) := arg_row 0x48 lanes 0xFFFFFFFFFFFFFF00 (by decide)

theorem beUnpack16 (lanes : BitVec 16) : Statement (.beUnpack16 lanes) := arg_row 0x49 lanes 0xFFFFFFFFFFFF0000 (by decide)

theorem beUnpack32 (lanes : BitVec 32) : Statement (.beUnpack32 lanes) := arg_row 0x4A lanes 0xFFFFFFFF00000000 (by decide)

theorem beUnpack64 (lanes : BitVec 64) : Statement (.beUnpack64 lanes) := arg_row 0x4B lanes 0 (by decide)

theorem wireHdr0 : Statement (.wireHdr0) := by
  unfold Statement; decide

theorem wireHdr1 : Statement (.wireHdr1) := by
  unfold Statement; decide

theorem wireCrc (c : Byte) : Statement (.wireCrc c) := by
  simp [Statement, encode, Code.bits, Instr.row]

theorem wireCount (n : Nibble) : Statement (.wireCount n) := by
  revert n; unfold Statement; decide

theorem tagBoolFalse : Statement (.tagBoolFalse) := by
  unfold Statement; decide

theorem tagBoolTrue : Statement (.tagBoolTrue) := by
  unfold Statement; decide

theorem tagFloat : Statement (.tagFloat) := by
  unfold Statement; decide

theorem tagDouble : Statement (.tagDouble) := by
  unfold Statement; decide

theorem tagUint8 : Statement (.tagUint8) := by
  unfold Statement; decide

theorem tagUint16 : Statement (.tagUint16) := by
  unfold Statement; decide

theorem tagUint32 : Statement (.tagUint32) := by
  unfold Statement; decide

theorem tagUint64 : Statement (.tagUint64) := by
  unfold Statement; decide

theorem tagInt8 : Statement (.tagInt8) := by
  unfold Statement; decide

theorem tagInt16 : Statement (.tagInt16) := by
  unfold Statement; decide

theorem tagInt32 : Statement (.tagInt32) := by
  unfold Statement; decide

theorem tagInt64 : Statement (.tagInt64) := by
  unfold Statement; decide

theorem tagString (n : Nibble) : Statement (.tagString n) := by
  revert n; unfold Statement; decide

end Laws.RowMatches

end Sys2Proof
end

