-- ==== Sys2Proof/Machine/Asm.lean ====
section
/-! DEFINITION. The assembler spelling of an operation (30_encoding.md R75). The machine does not use it. -/

namespace Sys2Proof.Machine

/-- `v` in C notation with `digits` upper-case hexadecimal digits (the number of digits is log 17). -/
def hex (digits v : Nat) : String :=
  ((List.range digits).map fun k => "0123456789ABCDEF".toList.getD (v / 16 ^ (digits - 1 - k) % 16) '0').foldl
    String.push "0x"

/-- The operation as R75 spells it; a wire byte has no spelling there. -/
def asm : Instr → Option String
  | .nop => some "NOP"
  | .crcSeed s => some ("CRC.SEED " ++ hex 8 s.toNat)
  | .crcByte b => some ("CRC.BYTE " ++ hex 2 b.toNat)
  | .crcRead => some "CRC.READ"
  | .syncPut b => some ("SYNC.PUT " ++ hex 2 b.toNat)
  | .msgLen => some "MSG.LEN"
  | .msgKind i => some ("MSG.KIND " ++ toString i.toNat)
  | .msgVal i => some ("MSG.VAL " ++ toString i.toNat)
  | .msgSlen i => some ("MSG.SLEN " ++ toString i.toNat)
  | .msgStrb i j => some ("MSG.STRB " ++ toString i.toNat ++ ", " ++ toString j.toNat)
  | .bePack8 v => some ("BE.PACK8 " ++ hex 2 v.toNat)
  | .bePack16 v => some ("BE.PACK16 " ++ hex 4 v.toNat)
  | .bePack32 v => some ("BE.PACK32 " ++ hex 8 v.toNat)
  | .bePack64 v => some ("BE.PACK64 " ++ hex 16 v.toNat)
  | .beUnpack8 v => some ("BE.UNPACK8 " ++ hex 2 v.toNat)
  | .beUnpack16 v => some ("BE.UNPACK16 " ++ hex 4 v.toNat)
  | .beUnpack32 v => some ("BE.UNPACK32 " ++ hex 8 v.toNat)
  | .beUnpack64 v => some ("BE.UNPACK64 " ++ hex 16 v.toNat)
  | .wireHdr0 => none
  | .wireHdr1 => none
  | .wireCrc _ => none
  | .wireCount _ => none
  | .tagBoolFalse => none
  | .tagBoolTrue => none
  | .tagFloat => none
  | .tagDouble => none
  | .tagUint8 => none
  | .tagUint16 => none
  | .tagUint32 => none
  | .tagUint64 => none
  | .tagInt8 => none
  | .tagInt16 => none
  | .tagInt32 => none
  | .tagInt64 => none
  | .tagString _ => none

end Sys2Proof.Machine
end

