-- ==== Sys2Proof/Tests/Slice0.lean ====
section
/-! SUPPORT. The model's own tests: the WellFormed smoke, every constructor's decoding from a word written out from
the spec's encoding (30_encoding.md R70 to R80), single steps from the vectors of 95_test_vectors.md, and a witness
for every statement that has hypotheses. Expected values come from the spec's files, named in each comment. -/

namespace Sys2Proof.Tests

open Sys2Proof.Machine

/-! ## Helpers -/

/-- The state an operation ended in. -/
def ended : Out → Option State
  | .next t => some t
  | .fault _ => none
  | .refused _ => none

/-- A field of the state an operation ended in. -/
def field {α : Type} (o : Out) (f : State → α) : Option α := (ended o).map f

/-- What the result port shows after an operation. -/
def shown (o : Out) : Option Result := (ended o).bind State.result

/-- Why a word was refused. -/
def whyRefused : Out → Option DecodeError
  | .refused (.reservedWord why) => some why
  | .refused (.notModelled _) => none
  | .next _ => none
  | .fault _ => none

/-- The buffer that holds these bytes from address 0 on. -/
def bufOf (bs : List Byte) : Memory := Memory.writeList [] 0 bs

/-- V20, the empty frame. -/
def v20 : List Byte := [0x92, 0xCE, 0x22, 0x0D, 0x7C, 0xC9, 0x90]

/-- V26: Bool false, Bool true. -/
def v26 : List Byte := [0x92, 0xCE, 0xFA, 0x77, 0x93, 0x4A, 0x92, 0xC2, 0xC3]

/-- V34: the empty String. -/
def v34 : List Byte := [0x92, 0xCE, 0xFF, 0x55, 0x0A, 0x4C, 0x91, 0xA0]

/-- V37, the longest frame: 15 Strings of 15 bytes `55`. -/
def v37 : List Byte :=
  [0x92, 0xCE, 0x6D, 0xD7, 0x34, 0x08, 0x9F] ++
    (List.replicate 15 (0xAF :: List.replicate 15 (0x55 : Byte))).flatten

/-- After six bytes of V20. -/
def atCount : State := { State.reset with len := 6, buf := bufOf (v20.take 6), crcHeader := 0x220D7CC9 }

/-- After the seven bytes of V45 before its unknown tag: one object to come. -/
def atTag : State :=
  { State.reset with
    len := 7, remainingObjects := 1, crcHeader := 0xC5E05B82, crcBody := 0x550A4C5F
    buf := bufOf [0x92, 0xCE, 0xC5, 0xE0, 0x5B, 0x82, 0x91] }

/-- After the seven bytes of V42 before its surplus byte: the count byte `8F`. -/
def atSurplus : State :=
  { State.reset with
    len := 7, remainingObjects := -1, crcBody := 0xAF05713C
    buf := bufOf [0x92, 0xCE, 0, 0, 0, 0, 0x8F] }

/-- After eight bytes of V27 (V48): one payload byte to come. -/
def atPayload : State :=
  { State.reset with
    len := 8, remainingBytes := 1, crcHeader := 0x7ADE61FF, crcBody := 0xBB51273F
    buf := bufOf [0x92, 0xCE, 0x7A, 0xDE, 0x61, 0xFF, 0x91, 0xCC] }

/-- At `len = 246` with a tag expected: no run reaches it, the arms take it all the same. -/
def lateTag : State := { State.reset with len := 246, remainingObjects := 15 }

/-- The buffer after 246 bytes of V37. -/
@[irreducible] def lateBuf : Memory := bufOf (v37.take 246)

/-- After 246 bytes of V37. -/
def atLast : State :=
  { State.reset with
    len := 246, remainingBytes := 1, crcHeader := 0x6DD73408
    crcBody := crc32b 0 (Memory.slice lateBuf 6 240), buf := lateBuf }

/-- The slot of fifteen bytes `55` (V37). -/
def fullString : Slot := { kind := 12, val := 0, slen := 15, str := Vector.replicate 15 0x55 }

/-- A valid staged message of fifteen such slots. -/
def fullMessage : State :=
  { State.reset with msg := { len := 15, obj := Vector.replicate 15 fullString }, msgValid := true }

/-- Idle, with junk in every other register, one value each. -/
def junkState : State :=
  { State.reset with
    remainingObjects := -1, remainingBytes := 15, crcHeader := 0xDEADBEEF, crcBody := 0x12345678
    buf := [(6, 0x91), (246, 0xFF)], crcAcc := 0xFFFFFFFF }

/-- A `Reset`'s junk: every byte of the buffer `A5`. -/
def someJunk : ResetJunk :=
  { remainingObjects := 16, remainingBytes := 3, crcHeader := 1, crcBody := 2,
    buf := Vector.replicate 247 0xA5, msg := { len := 2, obj := Vector.replicate 15 fullString } }

/-! ## WellFormed: the ill-formed terms (R73) -/

theorem test_wf_kind_15 : (Instr.msgKind 15).wellFormed = false := by decide
theorem test_wf_val_15 : (Instr.msgVal 15).wellFormed = false := by decide
theorem test_wf_slen_15 : (Instr.msgSlen 15).wellFormed = false := by decide
theorem test_wf_strb_i15 : (Instr.msgStrb 15 0).wellFormed = false := by decide
theorem test_wf_strb_j15 : (Instr.msgStrb 0 15).wellFormed = false := by decide
theorem test_wf_strb_14 : (Instr.msgStrb 14 14).wellFormed = true := by decide

/-! ## Decoding: one word a constructor, the fields of R70 one by one -/

theorem test_decode_nop : decodeOp 0x00000000000000000000 = .ok .nop := by decide
theorem test_decode_crcSeed : decodeOp 0x100000000000FFFFFFFF = .ok (.crcSeed 0xFFFFFFFF) := by decide
theorem test_decode_crcByte : decodeOp 0x11000000000000000031 = .ok (.crcByte 0x31) := by decide
theorem test_decode_crcRead : decodeOp 0x12000000000000000000 = .ok .crcRead := by decide
theorem test_decode_syncPut : decodeOp 0x200000000000000000FF = .ok (.syncPut 0xFF) := by decide
theorem test_decode_msgLen : decodeOp 0x30000000000000000000 = .ok .msgLen := by decide
theorem test_decode_msgKind : decodeOp 0x31010000000000000000 = .ok (.msgKind 1) := by decide
theorem test_decode_msgVal : decodeOp 0x320E0000000000000000 = .ok (.msgVal 14) := by decide
theorem test_decode_msgSlen : decodeOp 0x33010000000000000000 = .ok (.msgSlen 1) := by decide
theorem test_decode_msgStrb : decodeOp 0x34A10000000000000000 = .ok (.msgStrb 1 10) := by decide
theorem test_decode_bePack8 : decodeOp 0x400000000000000000AB = .ok (.bePack8 0xAB) := by decide
theorem test_decode_bePack16 : decodeOp 0x4100000000000000ABCD = .ok (.bePack16 0xABCD) := by decide
theorem test_decode_bePack32 : decodeOp 0x42000000000001234567 = .ok (.bePack32 0x01234567) := by decide
theorem test_decode_bePack64 : decodeOp 0x43008000000000000001 = .ok (.bePack64 0x8000000000000001) := by decide
theorem test_decode_beUnpack8 : decodeOp 0x480000000000000000AB = .ok (.beUnpack8 0xAB) := by decide
theorem test_decode_beUnpack16 : decodeOp 0x4900000000000000CDAB = .ok (.beUnpack16 0xCDAB) := by decide
theorem test_decode_beUnpack32 : decodeOp 0x4A000000000067452301 = .ok (.beUnpack32 0x67452301) := by decide
theorem test_decode_beUnpack64 : decodeOp 0x4B000000000000485540 = .ok (.beUnpack64 0x485540) := by decide

theorem test_decode_header :
    decodeWire .hdr0 0x92 = .ok .wireHdr0 ∧ decodeWire .hdr1 0xCE = .ok .wireHdr1 ∧
    decodeWire .crcField 0x7C = .ok (.wireCrc 0x7C) ∧ decodeWire .count 0x97 = .ok (.wireCount 7) := by decide
theorem test_decode_tags_c :
    decodeWire .tag 0xC2 = .ok .tagBoolFalse ∧ decodeWire .tag 0xC3 = .ok .tagBoolTrue ∧
    decodeWire .tag 0xCA = .ok .tagFloat ∧ decodeWire .tag 0xCB = .ok .tagDouble ∧
    decodeWire .tag 0xCC = .ok .tagUint8 ∧ decodeWire .tag 0xCD = .ok .tagUint16 ∧
    decodeWire .tag 0xCE = .ok .tagUint32 ∧ decodeWire .tag 0xCF = .ok .tagUint64 := by decide
theorem test_decode_tags_d :
    decodeWire .tag 0xD0 = .ok .tagInt8 ∧ decodeWire .tag 0xD1 = .ok .tagInt16 ∧
    decodeWire .tag 0xD2 = .ok .tagInt32 ∧ decodeWire .tag 0xD3 = .ok .tagInt64 ∧
    decodeWire .tag 0xAF = .ok (.tagString 15) ∧ decodeWire .tag 0xA0 = .ok (.tagString 0) := by decide
theorem test_decode_wire_refused :
    decodeWire .hdr0 0x93 = .error .notHeaderByte ∧ decodeWire .hdr1 0x92 = .error .notHeaderByte ∧
    decodeWire .count 0xA0 = .error .notCountByte ∧ decodeWire .count 0x8F = .error .notCountByte ∧
    decodeWire .tag 0xC1 = .error .unknownTag ∧ decodeWire .tag 0xD4 = .error .unknownTag := by decide

/-- V70: words that spell no operation. -/
theorem test_decode_refused :
    decodeOp 0x01000000000000000000 = .error .reservedOpcode ∧
    decodeOp 0xFF000000000000000000 = .error .reservedOpcode ∧
    decodeOp 0x44000000000000000000 = .error .reservedOpcode ∧
    decodeOp 0x4C000000000000000000 = .error .reservedOpcode ∧
    decodeOp 0x00000000000000000001 = .error .reservedBits ∧
    decodeOp 0x10000000000100000000 = .error .reservedBits ∧
    decodeOp 0x20010000000000000092 = .error .reservedBits ∧
    decodeOp 0x310F0000000000000000 = .error .reservedSlotIndex ∧
    decodeOp 0x31100000000000000000 = .error .reservedBits ∧
    decodeOp 0x34F00000000000000000 = .error .reservedByteIndex ∧
    decodeOp 0x340F0000000000000000 = .error .reservedSlotIndex ∧
    decodeOp 0x49000000000000FFCDAB = .error .reservedBits := by decide

/-- R75's spelling, as V61 and V71 write it. -/
theorem test_asm : asm (.msgStrb 14 14) = some "MSG.STRB 14, 14" ∧ asm (.syncPut 0xFF) = some "SYNC.PUT 0xFF" := by
  decide

/-! ## The host's view of a table word -/

theorem test_table_word :
    decodeTableWord 80 0x11000000000000000031 = some (.crcByte 0x31) ∧
    decodeTableWord 8 0xCA = some .tagFloat ∧ decodeTableWord 8 0x92 = some .wireHdr0 ∧
    decodeTableWord 8 0x90 = some (.wireCount 0) ∧ decodeTableWord 8 0x00 = some (.wireCrc 0) ∧
    decodeTableWord 80 0x01000000000000000000 = none := by decide
theorem test_fetch_word :
    field (step (State.reset.withFetchWord 80 0x100000000000DEADBEEF)) State.crcAcc = some 0xDEADBEEF := by decide
theorem test_fetch_wire :
    field (step (State.reset.withFetchWord 8 0xCA)) State.remainingBytes = some 4 := by decide

/-! ## Steps -/

theorem test_nop : shown (exec .nop fullMessage) = some ⟨0, false⟩ := by decide
theorem test_nop_keeps_window : field (exec .nop fullMessage) State.msgValid = some true := by decide
/-- V6, rows 5 and 7. -/
theorem test_crcSeed : field (exec (.crcSeed 0x12345678) State.reset) State.crcAcc = some 0x12345678 := by decide
/-- V1, the first column, and V6 row 2. -/
theorem test_crcByte_31 : field (exec (.crcByte 0x31) State.reset) State.crcAcc = some 0x83DCEFB7 := by decide
theorem test_crcByte_00 : field (exec (.crcByte 0x00) State.reset) State.crcAcc = some 0xD202EF8D := by decide
theorem test_crcRead :
    shown (exec .crcRead { State.reset with crcAcc := 0xD202EF8D }) = some ⟨0xD202EF8D, false⟩ := by decide
/-- V1 (E1): the known answer. -/
theorem test_crc_known_answer :
    crc32b 0 [0x31, 0x32, 0x33, 0x34, 0x35, 0x36, 0x37, 0x38, 0x39] = 0xCBF43926 := by decide +kernel
/-- V3: an arbitrary seed. -/
theorem test_crc_seeded : crc32b 0xDEADBEEF [0x61, 0x62, 0x63] = 0x45BB8AE2 := by decide +kernel
/-- V2: the raw step, and the same by the table. -/
theorem test_crc_step : crcRawStep 0x12345678 0x9A = 0x4E16B702 ∧ crcTableStep 0x12345678 0x9A = 0x4E16B702 := by
  decide

/-- V11: one row a width, each way. -/
theorem test_bePack8 : shown (exec (.bePack8 0xAB) State.reset) = some ⟨0xAB, false⟩ := by decide
theorem test_bePack16 : shown (exec (.bePack16 0xABCD) State.reset) = some ⟨0xCDAB, false⟩ := by decide
theorem test_bePack32 : shown (exec (.bePack32 0xFFFFFFFE) State.reset) = some ⟨0xFEFFFFFF, false⟩ := by
  decide
theorem test_bePack64 :
    shown (exec (.bePack64 0x4055480000000000) State.reset) = some ⟨0x485540, false⟩ := by decide
theorem test_beUnpack8 : shown (exec (.beUnpack8 0xAB) State.reset) = some ⟨0xAB, false⟩ := by decide
theorem test_beUnpack16 : shown (exec (.beUnpack16 0x0100) State.reset) = some ⟨0x0001, false⟩ := by decide
theorem test_beUnpack32 : shown (exec (.beUnpack32 0xC97C0D22) State.reset) = some ⟨0x220D7CC9, false⟩ := by
  decide
theorem test_beUnpack64 :
    shown (exec (.beUnpack64 0x0807060504030201) State.reset) = some ⟨0x0102030405060708, false⟩ := by decide

/-- V40: garbage is rejected. -/
theorem test_put_garbage :
    field (exec (.syncPut 0x00) State.reset) (fun t => (t.len, t.ghostReject)) = some (0, some .hdr0) := by decide
/-- V42, row 7: a count byte below `0x90` is stored. -/
theorem test_put_negative_count :
    field (exec (.syncPut 0x8F) { State.reset with len := 6 })
      (fun t => (t.len, t.remainingObjects.toInt, t.crcBody, t.ghostReject)) = some (7, -1, 0xAF05713C, none) := by
  decide
/-- V43, row 7: a count byte above `0x9F` is rejected; the count is written all the same. -/
theorem test_wire_count_above :
    field (exec (.syncPut 0xA0) { State.reset with len := 6 })
      (fun t => (t.len, t.remainingObjects, t.ghostReject)) = some (0, 16, some .count) := by decide
/-- V44, row 7: a wrong CRC. -/
theorem test_put_crc_mismatch :
    field (exec (.syncPut 0x90) { atCount with crcHeader := 0x220D7CC8 })
      (fun t => (t.len, t.crcBody, t.ghostReject)) = some (0, 0x220D7CC9, some .crc) := by decide
/-- V45, row 8: an unknown tag; the object is counted all the same. -/
theorem test_put_unknown_tag :
    field (exec (.syncPut 0xC1) atTag) (fun t => (t.len, t.remainingObjects, t.ghostReject)) =
      some (0, 0, some .tag) := by decide
/-- V42, row 8: a surplus byte. -/
theorem test_put_surplus :
    field (exec (.syncPut 0x92) atSurplus) (fun t => (t.len, t.remainingObjects.toInt, t.ghostReject)) =
      some (0, -1, some .surplus) := by decide
/-- V48, row 9: a payload byte `0x92` is payload; the message is staged. -/
theorem test_put_payload :
    field (exec (.syncPut 0x92) atPayload)
      (fun t => (t.result, t.msg.len, (t.msg.slot 0).kind, (t.msg.slot 0).val)) =
      some (some ⟨0, true⟩, 1, 2, 0x92) := by decide
/-- V20: the empty message is ready on its count byte. -/
theorem test_wire_count_empty :
    field (exec (.wireCount 0) atCount) (fun t => (t.len, t.msgValid, t.msg.len, t.result)) =
      some (0, true, 0, some ⟨0, true⟩) := by decide
theorem test_wire_hdr0 : field (exec .wireHdr0 State.reset) (fun t => (t.len, t.buf)) = some (1, [(0, 0x92)]) := by
  decide
theorem test_wire_hdr1 :
    field (exec .wireHdr1 { State.reset with len := 1, crcBody := 5 }) (fun t => (t.len, t.crcBody)) =
      some (2, 0) := by decide
/-- V38, row 4. -/
theorem test_wire_crc :
    field (exec (.wireCrc 0xB2) { State.reset with len := 3, crcHeader := 0xED })
      (fun t => (t.len, t.crcHeader)) = some (4, 0xEDB2) := by decide
/-- R80: the payload length each tag opens. -/
theorem test_tags_payload :
    [Instr.tagFloat, .tagDouble, .tagUint8, .tagUint16, .tagUint32, .tagUint64, .tagInt8, .tagInt16, .tagInt32,
      .tagInt64, .tagString 10].map (fun i => field (exec i atTag) State.remainingBytes) =
      [4, 8, 1, 2, 4, 8, 1, 2, 4, 8, 10].map some := by decide
/-- V26: two Booleans, the second completes the frame. -/
theorem test_tag_bools :
    field (exec .tagBoolFalse { atTag with remainingObjects := 2 }) (fun t => (t.len, t.remainingObjects)) =
      some (8, 1) ∧
    field (exec .tagBoolTrue
        { State.reset with
          len := 8, remainingObjects := 1, crcHeader := 0xFA77934A, crcBody := crc32b 0 [0x92, 0xC2]
          buf := bufOf (v26.take 8) })
      (fun t => t.msg.objects.map Slot.val) = some [0, 1] := by decide +kernel

/-- V64: no message staged, a free value, and the next one another. -/
theorem test_msgLen_stale :
    field (exec .msgLen State.reset) (fun t => (t.draws, t.result.map Result.flag)) = some (1, some false) := by
  decide
theorem test_msgLen : shown (exec .msgLen fullMessage) = some ⟨15, false⟩ := by decide
theorem test_msgKind : shown (exec (.msgKind 14) fullMessage) = some ⟨12, false⟩ := by decide
theorem test_msgVal : shown (exec (.msgVal 0) fullMessage) = some ⟨0, false⟩ := by decide
theorem test_msgSlen : shown (exec (.msgSlen 0) fullMessage) = some ⟨15, false⟩ := by decide
theorem test_msgStrb : shown (exec (.msgStrb 14 14) fullMessage) = some ⟨0x55, false⟩ := by decide
theorem test_msgKind_15 : whyRefused (exec (.msgKind 15) fullMessage) = some .reservedSlotIndex := by decide

/-! ## Frames -/

/-- V37 (E12): the size of the longest message. -/
theorem test_frame_longest :
    msgSize (List.replicate 15 fullString) = 247 ∧ legalMessage (List.replicate 15 fullString) = true := by
  decide
/-- V20. -/
theorem test_frame_empty : frameEncode [] = v20 ∧ frameDecode v20 = some [] := by decide
/-- V35 and R180: an embedded zero. -/
theorem test_logical_length :
    (decodeObject (.string 3) [0x41, 0x00, 0x42]).logicalLen = 1 ∧
    (decodeObject (.string 3) [0x41, 0x00, 0x42]).slen = 3 := by decide
/-- R241. -/
theorem test_reject_codes : RejectCause.hdr0.code = 1 ∧ RejectCause.body.code = 7 := by decide

/-! ## Witnesses: for each statement with hypotheses, a state and operands that meet them together, clause by
clause and at the ends of the ranges -/

theorem next_of {α : Type} {o : Out} {f : State → α} {v : α} (h : field o f = some v) :
    ∃ t, o = .next t ∧ f t = v := by
  cases o with
  | next t => exact ⟨t, rfl, by simpa [field, ended] using h⟩
  | fault r => simp [field, ended] at h
  | refused r => simp [field, ended] at h

theorem fed_of {α : Type} {bs : List Byte} {s : State} {f : List PutReport × State → α} {v : α}
    (h : (feed bs s).map f = some v) : ∃ reports t, feed bs s = some (reports, t) ∧ f (reports, t) = v := by
  cases hf : feed bs s with
  | none => simp [hf] at h
  | some r => exact ⟨r.1, r.2, rfl, by simpa [hf] using h⟩

theorem bufOf_wf (bs : List Byte) (h : bs.length ≤ 247) : Memory.wf (bufOf bs) :=
  Memory.writeList_wf Memory.wf_nil (by simpa [Config.bufSize] using h)

theorem lateBuf_wf : Memory.wf lateBuf := by
  unfold lateBuf; exact bufOf_wf _ (by decide +kernel)

/-- The invariant after six bytes of V20. -/
theorem inv_atCount : Inv atCount where
  buf_wf := bufOf_wf _ (by decide)
  len_le := by decide
  header0 := by decide
  header1 := by decide
  crc_header := by decide
  crc_body := by decide
  counters := by decide
  negative := by decide
  parsed := by decide
  bound := by decide
  staged := by decide

/-- The invariant after the count byte `8F` (V42). -/
theorem inv_atSurplus : Inv atSurplus where
  buf_wf := bufOf_wf _ (by decide)
  len_le := by decide
  header0 := by decide
  header1 := by decide
  crc_header := by decide
  crc_body := by decide
  counters := by decide
  negative := by decide
  parsed := by decide
  bound := by decide
  staged := by decide

/-- The invariant after 246 bytes of V37. -/
theorem inv_atLast : Inv atLast where
  buf_wf := lateBuf_wf
  len_le := by decide
  header0 := by decide +kernel
  header1 := by decide +kernel
  crc_header := by decide +kernel
  crc_body := fun _ => rfl
  counters := by decide
  negative := by decide
  parsed := by decide +kernel
  bound := by decide +kernel
  staged := by decide

/-- The invariant with a message of fifteen full Strings staged. -/
theorem inv_fullMessage : Inv fullMessage where
  buf_wf := Memory.wf_nil
  len_le := by decide
  header0 := by decide
  header1 := by decide
  crc_header := by decide
  crc_body := by decide
  counters := by decide
  negative := by decide
  parsed := by decide
  bound := by decide
  staged := by decide

theorem witness_DecodeOfEncodeIsTheInstruction :
    (Instr.msgStrb 14 14).wellFormed = true ∧ (Instr.tagString 15).wellFormed = true := by decide

theorem witness_EncodeOfDecodeIsTheCode :
    decode (.op 0x34EE0000000000000000) = .ok (.msgStrb 14 14) ∧
    decode (.wire .tag 0xAF) = .ok (.tagString 15) := by decide

theorem witness_WordIsAnOperationIffARowMatches :
    (Instr.msgStrb 0 0).row ∈ opRows ∧
    (∃ i, decodeOp 0x34EE0000000000000000 = .ok i ∧ i.row = (Instr.msgStrb 0 0).row) ∧
    (State.reset.present 0x340F0000000000000000).issue = .op 0x340F0000000000000000 :: [] ∧
    (∀ r ∈ opRows, r.spells 0x340F0000000000000000 = false) :=
  ⟨by decide, ⟨.msgStrb 14 14, by decide, by decide⟩, rfl, by decide⟩

theorem witness_StepPerformsThePresentedOperation :
    (State.reset.present 0x20000000000000000092).issue = .op 0x20000000000000000092 :: [] ∧
    decodeOp 0x20000000000000000092 = .ok (.syncPut 0x92) := by decide

theorem witness_ResetLeavesItsValues :
    ({ junkState with issue := [.reset someJunk, .op 0] } : State).issue = .reset someJunk :: [.op 0] := rfl

theorem witness_ResetEventLeavesItsJunk :
    ({ junkState with issue := [.reset someJunk] } : State).issue = .reset someJunk :: [] ∧
    (∃ (a : Nat) (h : a < 247), someJunk.buf[a] = 0xA5) := ⟨rfl, 246, by omega, by simp [someJunk]⟩

theorem witness_WireRowDoesWhatSyncPutDoes :
    decodeWire .hdr0 0x92 = .ok .wireHdr0 ∧ decodeWire .hdr1 0xCE = .ok .wireHdr1 ∧
    decodeWire .crcField 0xFF = .ok (.wireCrc 0xFF) ∧ decodeWire .count 0x9F = .ok (.wireCount 15) ∧
    decodeWire .tag 0xA0 = .ok (.tagString 0) := by decide

theorem witness_EveryOperationEndsInANextState :
    (Instr.msgKind 14).wellFormed = true ∧ (Instr.msgKind 15).wellFormed = false := by decide

theorem witness_CrcProgramReturnsTheChecksum :
    ∀ i ∈ [Instr.crcByte 0x31, .syncPut 0x92, .crcByte 0x32, .msgStrb 14 14],
      i.wellFormed = true ∧ ∀ seed', i ≠ .crcSeed seed' := by
  intro i hi; simp only [List.mem_cons, List.not_mem_nil, or_false] at hi
  rcases hi with rfl | rfl | rfl | rfl <;> exact ⟨by decide, by simp⟩

theorem witness_BeFunctionsAreBigEndian :
    (1 ∈ [1, 2, 4, 8] ∧ ([0xFF] : List Byte).length = 1) ∧
    (8 ∈ [1, 2, 4, 8] ∧ ([0x80, 0, 0, 0, 0, 0, 0, 1] : List Byte).length = 8 ∧ 7 < 8) := by decide

theorem witness_BeFunctionsAreInverse :
    4 ∈ [1, 2, 4, 8] ∧ ([0x22, 0x0D, 0x7C, 0xC9] : List Byte).length = 4 := by decide

theorem witness_MessageReadsByTheWindow :
    (fullMessage.msgValid = true ∧ (14 : Nibble).toNat < fullMessage.msg.len.toNat ∧ (14 : Nibble).toNat < 15 ∧
      (0 : Nibble).toNat < fullMessage.msg.len.toNat) ∧
    State.reset.msgValid = false ∧
    ({ fullMessage with msg := { fullMessage.msg with len := 14 } } : State).msg.len.toNat ≤ (14 : Nibble).toNat := by
  decide

theorem witness_EachUndefinedReadDrawsAFreshValue :
    (14 : Nibble) ≠ 15 ∧ (0 : Nibble) ≠ 15 ∧ State.reset.msgValid = false ∧
    (∃ s : State, s.msgValid = true ∧ s.msg.len.toNat ≤ (14 : Nibble).toNat) :=
  ⟨by decide, by decide, rfl, { fullMessage with msg := { fullMessage.msg with len := 14 } }, by decide⟩

theorem witness_IndexFifteenIsRefused : (14 : Nibble) ≠ 15 ∧ (0 : Nibble) ≠ 15 := by decide

theorem witness_DecodedObjectFillsItsSlot :
    ([0xFF] : List Byte).length = 1 ∧ ([0x80, 0, 0, 0, 0, 0, 0, 1] : List Byte).length = 8 ∧
    ([] : List Byte).length = (0 : Nibble).toNat ∧
    (List.replicate 15 (0x55 : Byte)).length = (15 : Nibble).toNat := by decide

theorem witness_LogicalLengthStopsAtTheFirstZero :
    ([] : List Byte).length = (0 : Nibble).toNat ∧
    (List.replicate 15 (0x55 : Byte)).length = (15 : Nibble).toNat ∧
    ([0x41, 0x00, 0x42] : List Byte).length = (3 : Nibble).toNat := by decide

theorem witness_ReadyMessageIsLegal :
    (∃ t, exec (.syncPut 0x90) atCount = .next t ∧ t.report.flag = true) ∧
    (∃ t, exec (.syncPut 0x92) atPayload = .next t ∧ (t.report.flag, t.msg.objects.length) = (true, 1)) :=
  ⟨next_of (f := fun t => t.report.flag) (by decide),
    next_of (f := fun t => (t.report.flag, t.msg.objects.length)) (by decide)⟩

theorem witness_OverSizeByteStartsANewCandidate :
    247 ≤ ({ State.reset with len := 247 } : State).len.toNat ∧
    247 ≤ ({ State.reset with len := 255 } : State).len.toNat := by decide

theorem witness_HeaderBytesAreStoredOrRejected :
    (junkState.len = 0 ∧ (0x93 : Byte) ≠ 0x92) ∧
    (({ junkState with len := 1 } : State).len = 1 ∧ (0x92 : Byte) ≠ 0xCE) := by decide

theorem witness_CrcFieldByteIsShiftedIn :
    (2 ≤ ({ junkState with len := 2 } : State).len.toNat ∧ ({ junkState with len := 2 } : State).len.toNat ≤ 5) ∧
    (2 ≤ ({ junkState with len := 5 } : State).len.toNat ∧ ({ junkState with len := 5 } : State).len.toNat ≤ 5) := by
  decide

theorem witness_CountByteSetsTheCounters :
    atCount.len = 6 ∧ 0xA0 ≤ (0xA0 : Byte).toNat ∧ (0x9F : Byte).toNat < 0xA0 ∧ (0x8F : Byte).toNat < 0xA0 := by
  decide

theorem witness_BodyByteByBranch :
    (7 ≤ atLast.len.toNat ∧ atLast.len.toNat < 247 ∧ atLast.remainingBytes ≠ 0) ∧
    (7 ≤ atTag.len.toNat ∧ atTag.len.toNat < 247 ∧ atTag.remainingBytes = 0 ∧ 0 < atTag.remainingObjects.toInt ∧
      decodeTag 0xAF = some (.string 15) ∧ decodeTag 0xB0 = none) ∧
    (7 ≤ atSurplus.len.toNat ∧ atSurplus.len.toNat < 247 ∧ atSurplus.remainingBytes = 0 ∧
      atSurplus.remainingObjects.toInt ≤ 0) := by decide

theorem witness_WireRowsInTheirPlaces :
    junkState.len = 0 ∧ ({ junkState with len := 1 } : State).len = 1 ∧
    (2 ≤ ({ junkState with len := 2 } : State).len.toNat ∧ ({ junkState with len := 2 } : State).len.toNat ≤ 5) ∧
    (2 ≤ ({ junkState with len := 5 } : State).len.toNat ∧ ({ junkState with len := 5 } : State).len.toNat ≤ 5) ∧
    atCount.len = 6 ∧ tagExpected atTag ∧ tagExpected lateTag := by
  unfold tagExpected; decide

/-- One state and byte for each cause, and one that is ready. Cause `BODY` needs a state no run reaches: the
stored bytes do not say what the counters say. -/
theorem witness_RejectCausesAndReadyByCondition :
    (∃ t, exec (.syncPut 0x93) junkState = .next t ∧ t.ghostReject = some .hdr0) ∧
    (∃ t, exec (.syncPut 0x92) { junkState with len := 1 } = .next t ∧ t.ghostReject = some .hdr1) ∧
    (∃ t, exec (.syncPut 0xA0) atCount = .next t ∧ t.ghostReject = some .count) ∧
    (∃ t, exec (.syncPut 0xB0) lateTag = .next t ∧ t.ghostReject = some .tag) ∧
    (∃ t, exec (.syncPut 0xC2) atSurplus = .next t ∧ t.ghostReject = some .surplus) ∧
    (∃ t, exec (.syncPut 0x90) { atCount with crcHeader := 0 } = .next t ∧ t.ghostReject = some .crc) ∧
    (∃ t, exec (.syncPut 0x92) { atPayload with buf := [] } = .next t ∧ t.ghostReject = some .body) ∧
    (∃ t, exec (.syncPut 0x90) atCount = .next t ∧ t.report.flag = true) :=
  ⟨next_of (f := State.ghostReject) (by decide), next_of (f := State.ghostReject) (by decide),
    next_of (f := State.ghostReject) (by decide), next_of (f := State.ghostReject) (by decide),
    next_of (f := State.ghostReject) (by decide), next_of (f := State.ghostReject) (by decide),
    next_of (f := State.ghostReject) (by decide), next_of (f := fun t => t.report.flag) (by decide)⟩

/-- The causes as in the statement before, and a byte that begins no frame. -/
theorem witness_RejectLeavesTheSynchronizerIdle :
    (∃ t, exec (.syncPut 0x93) junkState = .next t ∧ t.ghostReject = some .hdr0) ∧
    (∃ t, exec (.syncPut 0x92) { junkState with len := 1 } = .next t ∧ t.ghostReject = some .hdr1) ∧
    (∃ t, exec (.syncPut 0xA0) atCount = .next t ∧ t.ghostReject = some .count) ∧
    (∃ t, exec (.syncPut 0xC1) atTag = .next t ∧ t.ghostReject = some .tag) ∧
    (∃ t, exec (.syncPut 0xC2) atSurplus = .next t ∧ t.ghostReject = some .surplus) ∧
    (∃ t, exec (.syncPut 0x90) { atCount with crcHeader := 0 } = .next t ∧ t.ghostReject = some .crc) ∧
    (∃ t, exec (.syncPut 0x92) { atPayload with buf := [] } = .next t ∧ t.ghostReject = some .body) ∧
    (0x93 : Byte) ≠ 0x92 :=
  ⟨next_of (f := State.ghostReject) (by decide), next_of (f := State.ghostReject) (by decide),
    next_of (f := State.ghostReject) (by decide), next_of (f := State.ghostReject) (by decide),
    next_of (f := State.ghostReject) (by decide), next_of (f := State.ghostReject) (by decide),
    next_of (f := State.ghostReject) (by decide), by decide⟩

/-- Offsets 0, 5, 6 and 246, a byte past the buffer, and a ready. -/
theorem witness_SynchronizerFrame :
    (putByte .wireHdr0 = some 0x92 ∧ ∃ t, exec .wireHdr0 junkState = .next t ∧ t.len = 1) ∧
    (putByte (.wireCrc 0xFF) = some 0xFF ∧
      ∃ t, exec (.wireCrc 0xFF) { junkState with len := 5 } = .next t ∧ t.len = 6) ∧
    (putByte (.wireCount 0) = some 0x90 ∧ ∃ t, exec (.wireCount 0) atCount = .next t ∧ t.report.flag = true) ∧
    (putByte (.tagString 15) = some 0xAF ∧ ∃ t, exec (.tagString 15) lateTag = .next t ∧ t.len = 247) ∧
    (putByte (.syncPut 0x92) = some 0x92 ∧
      ∃ t, exec (.syncPut 0x92) { lateTag with len := 247 } = .next t ∧ t.len = 1) :=
  ⟨⟨by decide, next_of (f := State.len) (by decide)⟩,
    ⟨by decide, next_of (f := State.len) (by decide)⟩,
    ⟨by decide, next_of (f := fun t => t.report.flag) (by decide)⟩,
    ⟨by decide, next_of (f := State.len) (by decide)⟩,
    ⟨by decide, next_of (f := State.len) (by decide)⟩⟩

theorem witness_OtherOperationsFrame :
    (putByte (.crcByte 0) = none ∧ ∃ t, exec (.crcByte 0) State.reset = .next t ∧ t.crcAcc = 0xD202EF8D) ∧
    (putByte .msgLen = none ∧ ∃ t, exec .msgLen State.reset = .next t ∧ t.draws = 1) ∧
    (putByte (.bePack8 1) = none ∧ ∃ t, exec (.bePack8 1) State.reset = .next t ∧ t.draws = 0) ∧
    (∀ seed, Instr.bePack8 1 ≠ .crcSeed seed) ∧ (∀ b, Instr.bePack8 1 ≠ .crcByte b) :=
  ⟨⟨by decide, next_of (f := State.crcAcc) (by decide)⟩, ⟨by decide, next_of (f := State.draws) (by decide)⟩,
    ⟨by decide, next_of (f := State.draws) (by decide)⟩, by simp, by simp⟩

theorem witness_SynchronizerIgnoresTheOtherUnits :
    (∃ t, runOps [.crcSeed 5, .syncPut 0x92, .msgLen] State.reset = .next t ∧ t.len = 1) ∧
    (∃ u, runOps ([Instr.crcSeed 5, .syncPut 0x92, .msgLen].filter fun i => (putByte i).isSome) State.reset =
      .next u ∧ u.len = 1) :=
  ⟨next_of (f := State.len) (by decide), next_of (f := State.len) (by decide)⟩

theorem witness_ResetMeetsTheInvariant :
    ({ junkState with issue := [.reset someJunk] } : State).issue = .reset someJunk :: [] := rfl

/-- A state that meets the invariant with a message staged, and one in the middle of the longest candidate, each
with an operation presented. -/
theorem witness_EveryStepKeepsTheInvariant :
    (Inv (fullMessage.present 0x20000000000000000092) ∧
      ∃ t, step (fullMessage.present 0x20000000000000000092) = .next t ∧ t.len = 1) ∧
    (Inv (atSurplus.present 0x20000000000000000092) ∧
      ∃ t, step (atSurplus.present 0x20000000000000000092) = .next t ∧ t.ghostReject = some .surplus) :=
  ⟨⟨⟨inv_fullMessage.1, inv_fullMessage.2, inv_fullMessage.3, inv_fullMessage.4, inv_fullMessage.5,
      inv_fullMessage.6, inv_fullMessage.7, inv_fullMessage.8, inv_fullMessage.9, inv_fullMessage.10,
      inv_fullMessage.11⟩, next_of (f := State.len) (by decide)⟩,
    ⟨⟨inv_atSurplus.1, inv_atSurplus.2, inv_atSurplus.3, inv_atSurplus.4, inv_atSurplus.5, inv_atSurplus.6,
      inv_atSurplus.7, inv_atSurplus.8, inv_atSurplus.9, inv_atSurplus.10, inv_atSurplus.11⟩,
      next_of (f := State.ghostReject) (by decide)⟩⟩

theorem witness_BoundsHoldInEveryRun :
    ∃ t, Sys2Proof.core.run 2 { State.reset with issue := [.reset someJunk, .op 0x20000000000000000092] } =
      .next t ∧ (t.len, t.crcHeader) = (1, 1) :=
  next_of (f := fun t => (t.len, t.crcHeader)) (by decide)

theorem witness_BodyParseNeverFailsUnderTheInvariant :
    Inv atCount ∧ ∃ t, exec (.syncPut 0x90) atCount = .next t ∧ t.report.flag = true :=
  ⟨inv_atCount, next_of (f := fun t => t.report.flag) (by decide)⟩

theorem witness_ReadyCandidateDecodes :
    Inv atCount ∧ ∃ t, exec (.syncPut 0x90) atCount = .next t ∧ t.report.flag = true :=
  ⟨inv_atCount, next_of (f := fun t => t.report.flag) (by decide)⟩

/-- A candidate of 246 bytes ends with the next byte; an idle synchronizer has 247 bytes. -/
theorem witness_CandidateEndsWithin247Bytes :
    (Inv atLast ∧ ([0x54] : List Byte).length = 247 - atLast.len.toNat) ∧
    (Inv fullMessage ∧ v37.length = 247 - fullMessage.len.toNat) :=
  ⟨⟨inv_atLast, by decide⟩, ⟨inv_fullMessage, by decide +kernel⟩⟩

theorem witness_ReadyMessageIsInTheStream :
    junkState.len = 0 ∧ ∃ reports t, feed (0x55 :: v20) junkState = some (reports, t) ∧
      reports.getLast? = some ⟨true, none⟩ :=
  ⟨by decide, fed_of (f := fun r => r.1.getLast?) (by decide)⟩

/-- No Object, two of them with the last index, and the empty String. -/
theorem witness_CleanFrameIsAcceptedAndReadBack :
    junkState.len = 0 ∧ frameDecode v20 = some [] ∧
    frameDecode v26 = some [scalarSlot .bool 0, scalarSlot .bool 1] ∧
    (1 : Nibble).toNat < [scalarSlot .bool 0, scalarSlot .bool 1].length ∧ (14 : Nibble).toNat < 15 ∧
    frameDecode v34 = some [stringSlot 0 []] := by decide +kernel

theorem witness_StreamAndOneShotAgreeWithoutRejects :
    junkState.len = 0 ∧ frameDecode v26 = some [scalarSlot .bool 0, scalarSlot .bool 1] ∧
    ∃ reports t, feed v26 junkState = some (reports, t) ∧
      (reports.map PutReport.flag, reports.all fun r => decide (r.cause = none), t.msg.objects) =
        (readyOnLast 9, true, [scalarSlot .bool 0, scalarSlot .bool 1]) :=
  ⟨by decide, by decide +kernel,
    fed_of (f := fun r => (r.1.map PutReport.flag, r.1.all fun r => decide (r.cause = none), r.2.msg.objects))
      (by decide +kernel)⟩

/-- The state in which R208 fails to the letter: idle, a rejected byte before the empty frame (log 14). -/
theorem witness_StreamAndOneShotAgreeToTheLetter :
    State.reset.len = 0 ∧ frameDecode (0x00 :: v20) = none ∧
    ∃ reports t, feed (0x00 :: v20) State.reset = some (reports, t) ∧
      (reports.map PutReport.flag, t.msg.objects) = (readyOnLast 8, []) :=
  ⟨by decide, by decide,
    fed_of (f := fun r => (r.1.map PutReport.flag, r.2.msg.objects)) (by decide)⟩

theorem witness_FrameRoundTrip :
    legalMessage (List.replicate 15 fullString) = true ∧ legalMessage [] = true ∧ frameDecode v20 = some [] := by
  decide

/-- The first and the last bit of a frame. -/
theorem witness_OneFlippedBitIsDetected : frameDecode v20 = some [] ∧ 0 < v20.length ∧ 6 < v20.length ∧ 7 < 8 := by
  decide

theorem witness_FrameSizes :
    fullString.legal = true ∧
    legalMessage (List.replicate 15 fullString) = true ∧ (List.replicate 15 fullString).length = 15 ∧
    ∀ o ∈ List.replicate 15 fullString, o.kind = 12 ∧ o.slen = 15 := by decide

/-- Both sides, with a prefix (a rejected byte) that is not empty. -/
theorem witness_ReadyOnLastIffIdlePrefixThenFrame :
    State.reset.len = 0 ∧
    (∃ reports t, feed (0x00 :: v20) State.reset = some (reports, t) ∧
      (reports.map PutReport.flag, t.msg.objects) = (readyOnLast 8, [])) ∧
    frameDecode v20 = some [] ∧
    ∃ reports t, feed [0x00] State.reset = some (reports, t) ∧ (reports, t.len) = ([⟨false, some .hdr0⟩], 0) :=
  ⟨by decide, fed_of (f := fun r => (r.1.map PutReport.flag, r.2.msg.objects)) (by decide +kernel),
    by decide +kernel, fed_of (f := fun r => (r.1, r.2.len)) (by decide)⟩

/-- The largest and the smallest such count byte. -/
theorem witness_CountByteBelowTheBaseIsRefusedByBoth :
    junkState.len = 0 ∧ (0x8F : Byte).toNat < 0x90 ∧ (0x00 : Byte).toNat < 0x90 := by decide

/-! ## R208 to the letter (log 14) -/

/-- Bytes given to a machine one after another, with the flag of each. -/
def flagsOf {S : Type} (put : S → Byte → S × Bool) : S → List Byte → S × List Bool
  | s, [] => (s, [])
  | s, b :: bs => ((flagsOf put (put s b).1 bs).1, (put s b).2 :: (flagsOf put (put s b).1 bs).2)

/-- Whatever the machine and the one-shot check are: with R142's rejection of a byte other than `0x92` in the idle
state, R152 and check 2 of R203, and one idle state and one frame, R208 fails to the letter. -/
theorem no_machine_meets_r208_to_the_letter {S : Type} (put : S → Byte → S × Bool) (idle : S → Prop)
    (staged : S → List Slot) (decode : List Byte → Option (List Slot))
    (r142 : ∀ s b, idle s → b ≠ 0x92 → idle (put s b).1 ∧ (put s b).2 = false)
    (r152 : ∀ s frame m, idle s → decode frame = some m →
      (flagsOf put s frame).2 = readyOnLast frame.length ∧ staged (flagsOf put s frame).1 = m)
    (r203 : ∀ bytes, bytes.head? ≠ some 0x92 → decode bytes = none)
    {s : S} (hs : idle s) {frame : List Byte} {m : List Slot} (hframe : decode frame = some m) :
    ¬ ∀ s bytes m, idle s → (decode bytes = some m ↔
      (flagsOf put s bytes).2 = readyOnLast bytes.length ∧ staged (flagsOf put s bytes).1 = m) := by
  intro r208
  obtain ⟨hidle, hflag⟩ := r142 s 0x00 hs (by decide)
  obtain ⟨hflags, hstaged⟩ := r152 _ frame m hidle hframe
  cases frame with
  | nil => rw [r203 _ (by decide)] at hframe; cases hframe
  | cons b bs =>
    have h := (r208 s (0x00 :: b :: bs) m hs).2
      ⟨by
        show (put s 0x00).2 :: _ = _
        rw [hflag, hflags]
        simp [readyOnLast, List.replicate_succ], hstaged⟩
    rw [r203 _ (by simp)] at h; cases h

end Sys2Proof.Tests
end

section
/-! PROOF. The opcode table against the decoder (30_encoding.md R72, R73): the arm of `decodeOp` for an opcode
accepts exactly the words the opcode's row spells, and gives an instruction of that row. -/

namespace Sys2Proof

/-! ## A row as masks on the four fields of a word -/

/-- A word is masked to a word iff each field is masked to its field. -/
theorem and_opWord_eq_iff (w : OpWord) (o o' : BitVec 8) (j j' i i' : Nibble) (a a' : Port64) :
    w &&& opWord o' j' i' a' = opWord o j i a ↔
      OpWord.opcode w &&& o' = o ∧ OpWord.j w &&& j' = j ∧ OpWord.i w &&& i' = i ∧ OpWord.arg w &&& a' = a := by
  conv_lhs => rw [← opWord_fields w, opWord_and]
  constructor
  · intro h
    exact ⟨by simpa using congrArg OpWord.opcode h, by simpa using congrArg OpWord.j h,
      by simpa using congrArg OpWord.i h, by simpa using congrArg OpWord.arg h⟩
  · rintro ⟨rfl, rfl, rfl, rfl⟩
    rfl

/-- The mask of every bit from `n` up leaves zero iff those bits are zero. -/
theorem and_allOnes_shiftLeft_eq_zero_iff {w : Nat} (a : BitVec w) (n : Nat) :
    a &&& BitVec.allOnes w <<< n = 0 ↔ a >>> n = 0 := by
  simp only [BitVec.eq_of_getLsbD_eq_iff, BitVec.getLsbD_and, BitVec.getLsbD_shiftLeft,
    BitVec.getLsbD_ushiftRight, BitVec.getLsbD_allOnes]
  constructor
  · intro h k hk
    by_cases hn : n + k < w
    · have := h (n + k) hn
      simp_all
    · exact (a.getLsbD_of_ge (n + k) (by omega)).trans BitVec.getLsbD_zero.symm
  · intro h k hk
    by_cases hn : n ≤ k
    · have := h (k - n) (by omega)
      simp_all
    · simp [show k < n by omega]

/-- The row of opcode `o` with the given masks on `j`, `i` and `arg`, and the constraints on `i` and `j`. -/
def opRow (o : BitVec 8) (jMask iMask : Nibble) (argMask : Port64) (iBelow jBelow : Bool) : TableRow :=
  ⟨opWord 0xFF jMask iMask argMask, opWord o 0 0 0, iBelow, jBelow⟩

/-- The row of an operation that reads `arg[n−1:0]` alone. -/
abbrev argRow (o : BitVec 8) (n : Nat) : TableRow :=
  opRow o (BitVec.allOnes 4) (BitVec.allOnes 4) (BitVec.allOnes 64 <<< n) false false

/-- The row of an operation that reads `i` alone. -/
abbrev slotRow (o : BitVec 8) : TableRow := opRow o (BitVec.allOnes 4) 0 (BitVec.allOnes 64) true false

/-- The row of an operation that reads `i` and `j`. -/
abbrev slotByteRow (o : BitVec 8) : TableRow := opRow o 0 0 (BitVec.allOnes 64) true true

theorem TableRow.spells_iff (r : TableRow) (w : OpWord) :
    r.spells w = true ↔ w &&& r.mask = r.pattern ∧ (r.iBelow15 = true → OpWord.i w ≠ 15) ∧
      (r.jBelow15 = true → OpWord.j w ≠ 15) := by
  simp [TableRow.spells, slotIndexOk, byteIndexOk, and_assoc, Decidable.imp_iff_not_or]

theorem opRow_spells_iff (w : OpWord) (o : BitVec 8) (jm im : Nibble) (am : Port64) (ib jb : Bool) :
    (opRow o jm im am ib jb).spells w = true ↔
      (OpWord.opcode w = o ∧ OpWord.j w &&& jm = 0 ∧ OpWord.i w &&& im = 0 ∧ OpWord.arg w &&& am = 0) ∧
        (ib = true → OpWord.i w ≠ 15) ∧ (jb = true → OpWord.j w ≠ 15) := by
  have hff : OpWord.opcode w &&& 0xFF = OpWord.opcode w := BitVec.and_allOnes
  simp only [TableRow.spells_iff, opRow, and_opWord_eq_iff, hff]

/-! ## The arms of the decoder -/

theorem decodeArg_eq_ok_iff {n : Nat} {w : OpWord} {op : BitVec n → Instr} {i : Instr} :
    decodeArg n w op = .ok i ↔
      (OpWord.j w = 0 ∧ OpWord.i w = 0 ∧ OpWord.arg w >>> n = 0) ∧ op ((OpWord.arg w).setWidth n) = i := by
  unfold decodeArg
  split
  · next h => simp [h]
  · next h => simp only [h, false_and, reduceCtorEq]

theorem decodeSlot_eq_ok_iff {w : OpWord} {op : Nibble → Instr} {i : Instr} :
    decodeSlot w op = .ok i ↔
      ((OpWord.j w = 0 ∧ OpWord.arg w = 0) ∧ OpWord.i w ≠ 15) ∧ op (OpWord.i w) = i := by
  unfold decodeSlot slotIndexOk
  split
  · split <;> simp_all
  · next h => simp only [h, false_and, reduceCtorEq]

theorem decodeSlotByte_eq_ok_iff {w : OpWord} {op : Nibble → Nibble → Instr} {i : Instr} :
    decodeSlotByte w op = .ok i ↔
      (OpWord.arg w = 0 ∧ OpWord.i w ≠ 15 ∧ OpWord.j w ≠ 15) ∧ op (OpWord.i w) (OpWord.j w) = i := by
  unfold decodeSlotByte slotIndexOk byteIndexOk
  split
  · split
    · split <;> simp_all
    · simp_all
  · next h => simp only [h, false_and, reduceCtorEq]

/-- `r` is the row of `w`'s opcode, and `d`, a decoding of `w`, is what `r` says it is. -/
structure DecodesByRow (w : OpWord) (d : Except DecodeError Instr) (r : TableRow) : Prop where
  mem : r ∈ opRows
  opcode : OpWord.opcode w = OpWord.opcode r.pattern
  row : ∀ i, d = .ok i → i.row = r
  accepts : (∃ i, d = .ok i) ↔ r.spells w = true

section
variable {w : OpWord} (o : BitVec 8) (ho : (OpWord.opcode w).toNat = o.toNat)
include ho

/-- A decoding that can give one instruction `x` only, of the row, and gives it when the row's conditions hold. -/
theorem decodesByRow_of_eq_ok_iff {d : Except DecodeError Instr} {x : Instr} {jm im : Nibble} {am : Port64}
    {ib jb : Bool} (hmem : opRow o jm im am ib jb ∈ opRows) (hrow : x.row = opRow o jm im am ib jb)
    (hd : ∀ i, d = .ok i ↔ ((OpWord.j w &&& jm = 0 ∧ OpWord.i w &&& im = 0 ∧ OpWord.arg w &&& am = 0) ∧
      (ib = true → OpWord.i w ≠ 15) ∧ (jb = true → OpWord.j w ≠ 15)) ∧ x = i) :
    ∃ r, DecodesByRow w d r := by
  have ho : OpWord.opcode w = o := BitVec.eq_of_toNat_eq ho
  refine ⟨_, hmem, by simp [opRow, ho], fun i hi => ?_, ?_⟩
  · rw [← ((hd i).1 hi).2, hrow]
  · simp only [hd, opRow_spells_iff, ho, true_and, exists_and_left, exists_eq', and_true]

theorem decodeArg_decodesByRow (n : Nat) (op : BitVec n → Instr)
    (hmem : argRow o n ∈ opRows) (hop : ∀ v, (op v).row = argRow o n) :
    ∃ r, DecodesByRow w (decodeArg n w op) r := by
  refine decodesByRow_of_eq_ok_iff o ho hmem (hop ((OpWord.arg w).setWidth n)) fun i => ?_
  simp only [decodeArg_eq_ok_iff, and_allOnes_shiftLeft_eq_zero_iff, BitVec.and_allOnes]
  simp

theorem decodeSlot_decodesByRow (op : Nibble → Instr)
    (hmem : slotRow o ∈ opRows) (hop : ∀ k, (op k).row = slotRow o) :
    ∃ r, DecodesByRow w (decodeSlot w op) r := by
  refine decodesByRow_of_eq_ok_iff o ho hmem (hop (OpWord.i w)) fun i => ?_
  simp only [decodeSlot_eq_ok_iff, BitVec.and_allOnes]
  simp

theorem decodeSlotByte_decodesByRow (op : Nibble → Nibble → Instr)
    (hmem : slotByteRow o ∈ opRows) (hop : ∀ k l, (op k l).row = slotByteRow o) :
    ∃ r, DecodesByRow w (decodeSlotByte w op) r := by
  refine decodesByRow_of_eq_ok_iff o ho hmem (hop (OpWord.i w) (OpWord.j w)) fun i => ?_
  simp only [decodeSlotByte_eq_ok_iff, BitVec.and_allOnes]
  simp

end

/-- What `decodeOp` can do: by the row of the word's opcode, or the opcode is reserved. -/
theorem decodeOp_cases (w : OpWord) :
    (∃ r, DecodesByRow w (decodeOp w) r) ∨
      (decodeOp w = .error .reservedOpcode ∧ ∀ r ∈ opRows, OpWord.opcode w ≠ OpWord.opcode r.pattern) := by
  unfold decodeOp
  split
  · next h => exact .inl (decodeArg_decodesByRow 0x00 h 0 (fun _ => .nop) (by decide) fun _ => rfl)
  · next h => exact .inl (decodeArg_decodesByRow 0x10 h 32 .crcSeed (by decide) fun _ => rfl)
  · next h => exact .inl (decodeArg_decodesByRow 0x11 h 8 .crcByte (by decide) fun _ => rfl)
  · next h => exact .inl (decodeArg_decodesByRow 0x12 h 0 (fun _ => .crcRead) (by decide) fun _ => rfl)
  · next h => exact .inl (decodeArg_decodesByRow 0x20 h 8 .syncPut (by decide) fun _ => rfl)
  · next h => exact .inl (decodeArg_decodesByRow 0x30 h 0 (fun _ => .msgLen) (by decide) fun _ => rfl)
  · next h => exact .inl (decodeSlot_decodesByRow 0x31 h .msgKind (by decide) fun _ => rfl)
  · next h => exact .inl (decodeSlot_decodesByRow 0x32 h .msgVal (by decide) fun _ => rfl)
  · next h => exact .inl (decodeSlot_decodesByRow 0x33 h .msgSlen (by decide) fun _ => rfl)
  · next h => exact .inl (decodeSlotByte_decodesByRow 0x34 h .msgStrb (by decide) fun _ _ => rfl)
  · next h => exact .inl (decodeArg_decodesByRow 0x40 h 8 .bePack8 (by decide) fun _ => rfl)
  · next h => exact .inl (decodeArg_decodesByRow 0x41 h 16 .bePack16 (by decide) fun _ => rfl)
  · next h => exact .inl (decodeArg_decodesByRow 0x42 h 32 .bePack32 (by decide) fun _ => rfl)
  · next h => exact .inl (decodeArg_decodesByRow 0x43 h 64 .bePack64 (by decide) fun _ => rfl)
  · next h => exact .inl (decodeArg_decodesByRow 0x48 h 8 .beUnpack8 (by decide) fun _ => rfl)
  · next h => exact .inl (decodeArg_decodesByRow 0x49 h 16 .beUnpack16 (by decide) fun _ => rfl)
  · next h => exact .inl (decodeArg_decodesByRow 0x4A h 32 .beUnpack32 (by decide) fun _ => rfl)
  · next h => exact .inl (decodeArg_decodesByRow 0x4B h 64 .beUnpack64 (by decide) fun _ => rfl)
  · refine .inr ⟨rfl, fun r hr ho => ?_⟩
    have ho := congrArg BitVec.toNat ho
    fin_cases hr <;> contradiction

/-! ## The decoder and the table -/

/-- No two operation rows have one opcode. -/
theorem opRows_opcode_injective : ∀ r ∈ opRows, ∀ r' ∈ opRows,
    OpWord.opcode r.pattern = OpWord.opcode r'.pattern → r = r' := by decide

/-- The mask of every operation row covers the opcode. -/
theorem opRows_mask_opcode : ∀ r ∈ opRows, OpWord.opcode r.mask = 0xFF := by decide

theorem TableRow.opcode_of_spells {r : TableRow} {w : OpWord} (hr : r ∈ opRows) (h : r.spells w = true) :
    OpWord.opcode w = OpWord.opcode r.pattern := by
  obtain ⟨hmask, -, -⟩ := (r.spells_iff w).1 h
  rw [← opWord_fields r.mask, ← opWord_fields r.pattern, and_opWord_eq_iff, opRows_mask_opcode r hr] at hmask
  exact BitVec.and_allOnes.symm.trans hmask.1

/-- Whatever decodes is spelled by its own row, an operation row. -/
theorem row_spells_of_decodeOp {w : OpWord} {i : Instr} (h : decodeOp w = .ok i) :
    i.row ∈ opRows ∧ i.row.spells w = true := by
  obtain ⟨r, hr⟩ | ⟨herr, -⟩ := decodeOp_cases w
  · obtain rfl := hr.row i h
    exact ⟨hr.mem, hr.accepts.1 ⟨i, h⟩⟩
  · rw [herr] at h
    cases h

/-- Whatever an operation row spells decodes to an instruction of that row. -/
theorem decodeOp_of_spells {w : OpWord} {r : TableRow} (hmem : r ∈ opRows) (h : r.spells w = true) :
    ∃ i, decodeOp w = .ok i ∧ i.row = r := by
  have ho := TableRow.opcode_of_spells hmem h
  obtain ⟨r', hr'⟩ | ⟨-, hnone⟩ := decodeOp_cases w
  · obtain rfl := opRows_opcode_injective r hmem r' hr'.mem (ho.symm.trans hr'.opcode)
    obtain ⟨i, hi⟩ := hr'.accepts.2 h
    exact ⟨i, hi, hr'.row i hi⟩
  · exact absurd ho (hnone r hmem)

theorem spells_iff_decodeOp {w : OpWord} {r : TableRow} (hmem : r ∈ opRows) :
    r.spells w = true ↔ ∃ i, decodeOp w = .ok i ∧ i.row = r := by
  constructor
  · exact decodeOp_of_spells hmem
  · rintro ⟨i, hi, rfl⟩
    exact (row_spells_of_decodeOp hi).2

theorem Machine.step_of_decodeOp_error {s : Machine.State} {w : OpWord} {rest : List Machine.HostEvent}
    {why : DecodeError} (hissue : s.issue = .op w :: rest) (h : decodeOp w = .error why) :
    Machine.step s = .refused (.reservedWord why) := by
  simp only [Machine.step, hissue, Machine.runWord, h]

/-- Settles O4: each arm of the decoder follows the row of its opcode, and no two rows share an opcode. -/
theorem wordIsAnOperationIffARowMatches : Obligations.WordIsAnOperationIffARowMatches := by
  unfold Obligations.WordIsAnOperationIffARowMatches
  refine ⟨fun w r hr => ?_, fun w i hi => (row_spells_of_decodeOp hi).1, fun s w rest hissue hnone => ?_⟩
  · rw [← TableRow.spells_iff, spells_iff_decodeOp hr]
  · cases hd : decodeOp w with
    | error why => exact ⟨why, Machine.step_of_decodeOp_error hissue hd⟩
    | ok i =>
      obtain ⟨hmem, hspells⟩ := row_spells_of_decodeOp hd
      rw [hnone _ hmem] at hspells
      cases hspells

end Sys2Proof
end

section
/-! PROOF. The tag table (30_encoding.md R80 to R82). -/

namespace Sys2Proof

/-- A String's tag byte is `0xA0` with the length in the low nibble. -/
theorem Tag.byte_string (l : Nibble) : (Tag.string l).byte = 0xA0 ||| l.setWidth 8 := by
  revert l; decide

/-- The four ranges that the 28 known tags leave over. -/
theorem decodeTag_eq_none_iff : ∀ b : Byte, decodeTag b = none ↔
    b.toNat ≤ 0x9F ∨ (0xB0 ≤ b.toNat ∧ b.toNat ≤ 0xC1) ∨ (0xC4 ≤ b.toNat ∧ b.toNat ≤ 0xC9) ∨
      0xD4 ≤ b.toNat := by decide

/-- Settles O5: the rows one by one, and the known tags are the whole of the rest. -/
theorem tagTableIsTheSpecs : Obligations.TagTableIsTheSpecs := by
  unfold Obligations.TagTableIsTheSpecs
  refine ⟨?_, fun l => ⟨.string l, ?_, rfl, rfl⟩, decodeTag_eq_none_iff⟩
  · simp only [List.forall_mem_cons]
    exact ⟨⟨_, decodeTag_byte .boolFalse, rfl, rfl⟩, ⟨_, decodeTag_byte .boolTrue, rfl, rfl⟩,
      ⟨_, decodeTag_byte .uint8, rfl, rfl⟩, ⟨_, decodeTag_byte .uint16, rfl, rfl⟩,
      ⟨_, decodeTag_byte .uint32, rfl, rfl⟩, ⟨_, decodeTag_byte .uint64, rfl, rfl⟩,
      ⟨_, decodeTag_byte .int8, rfl, rfl⟩, ⟨_, decodeTag_byte .int16, rfl, rfl⟩,
      ⟨_, decodeTag_byte .int32, rfl, rfl⟩, ⟨_, decodeTag_byte .int64, rfl, rfl⟩,
      ⟨_, decodeTag_byte .float, rfl, rfl⟩, ⟨_, decodeTag_byte .double, rfl, rfl⟩, by simp⟩
  · rw [← Tag.byte_string]
    exact decodeTag_byte _

end Sys2Proof
end

section
/-! PROOF. The one word of an operation that reads `arg[n−1:0]` alone (30_encoding.md R71, R73), and `CRC.BYTE`
(40_crc.md R106). -/

namespace Sys2Proof

/-- A word is put together from four fields iff they are its fields. -/
theorem eq_opWord_iff (w : OpWord) (o : BitVec 8) (j i : Nibble) (a : Port64) :
    w = opWord o j i a ↔ OpWord.opcode w = o ∧ OpWord.j w = j ∧ OpWord.i w = i ∧ OpWord.arg w = a := by
  constructor
  · rintro rfl
    simp
  · rintro ⟨rfl, rfl, rfl, rfl⟩
    exact (opWord_fields w).symm

/-- An operand is the zero extension of `v` iff its low bits are `v` and no bit above them is set. -/
theorem eq_setWidth_iff {m n : Nat} (hn : n ≤ m) (a : BitVec m) (v : BitVec n) :
    a = v.setWidth m ↔ a >>> n = 0 ∧ a.setWidth n = v := by
  constructor
  · rintro rfl
    refine ⟨BitVec.eq_of_toNat_eq ?_, by simp [hn]⟩
    simp [BitVec.toNat_setWidth_of_le hn, Nat.shiftRight_eq_div_pow, Nat.div_eq_of_lt v.isLt]
  · rintro ⟨hhigh, rfl⟩
    have hlt : a.toNat < 2 ^ n := by
      have := congrArg BitVec.toNat hhigh
      simpa [Nat.shiftRight_eq_div_pow, Nat.div_eq_zero_iff] using this
    exact BitVec.eq_of_toNat_eq (by simp [Nat.mod_eq_of_lt hlt])

/-- An operation whose arm of the decoder reads `arg[n−1:0]` alone is spelled by one word. -/
theorem decodeOp_eq_ok_iff_eq_opWordArg {n : Nat} (hn : n ≤ 64) (o : BitVec 8) {op : BitVec n → Instr}
    (hinj : Function.Injective op) (hrow : ∀ v, (op v).row = argRow o n)
    (harm : ∀ w, OpWord.opcode w = o → decodeOp w = decodeArg n w op) (w : OpWord) (v : BitVec n) :
    decodeOp w = .ok (op v) ↔ w = opWordArg o v := by
  have hopcode : decodeOp w = .ok (op v) → OpWord.opcode w = o := fun h => by
    obtain ⟨hmem, hspells⟩ := row_spells_of_decodeOp h
    rw [TableRow.opcode_of_spells hmem hspells, hrow]
    exact opcode_opWord o 0 0 0
  rw [opWordArg, eq_opWord_iff, eq_setWidth_iff hn, ← and_iff_right_of_imp hopcode]
  refine and_congr_right fun ho => ?_
  rw [harm w ho, decodeArg_eq_ok_iff, hinj.eq_iff, and_assoc, and_assoc]

/-- The one word that spells `CRC.BYTE b` (R106). -/
theorem decodeOp_eq_crcByte_iff (w : OpWord) (b : Byte) : decodeOp w = .ok (.crcByte b) ↔ w = opWordArg 0x11 b :=
  decodeOp_eq_ok_iff_eq_opWordArg (by decide) 0x11 (fun _ _ => Instr.crcByte.inj) (fun _ => rfl)
    (fun _ h => by simp [decodeOp, h]) w b

/-- `CRC.BYTE b` feeds `b` to the accumulator and ends with the result `(0, 0)`. -/
theorem Machine.exec_crcByte (b : Byte) (s : Machine.State) :
    Machine.exec (.crcByte b) s = .next ({ s with crcAcc := crcFeed s.crcAcc b }.finish 0 false) := rfl

/-- Settles O12: the word by its fields, the next state by the arm of `CRC.BYTE`. -/
theorem crcByteFeedsTheAccumulator : Obligations.CrcByteFeedsTheAccumulator := by
  unfold Obligations.CrcByteFeedsTheAccumulator
  exact fun s b w => ⟨decodeOp_eq_crcByte_iff w b, Machine.exec_crcByte b s⟩

end Sys2Proof
end

section
/-! PROOF. The big-endian functions (41_be_datapath.md R120, R121): `be_unpack_n` as a concatenation and as a
number, and the operations of unit U3 (R126 to R133), which all turn the lanes of their operand around. -/

namespace Sys2Proof

namespace Machine

/-! ## `be_unpack_n` as a concatenation -/

/-- One step of `be_unpack_n` (R121) appends the byte on the right. -/
theorem setWidth_append_byte {m : Nat} (w : Nat) (x : BitVec m) (b : Byte) :
    (x ++ b).setWidth w = x.setWidth w <<< 8 ||| b.setWidth w := by
  apply BitVec.eq_of_getLsbD_eq
  intro k hk
  by_cases h : k < 8
  · simp [BitVec.getLsbD_append, h, hk]
  · simp [BitVec.getLsbD_append, h, hk, BitVec.getLsbD_of_ge b k (by omega)]

@[simp] theorem beUnpack_nil (w : Nat) : beUnpack w [] = 0 := rfl

theorem beUnpack_concat (w : Nat) (s : List Byte) (b : Byte) :
    beUnpack w (s ++ [b]) = beUnpack w s <<< 8 ||| b.setWidth w := by
  simp [beUnpack]

theorem lanes_succ {w : Nat} (n : Nat) (v : BitVec w) : lanes (n + 1) v = lanes n v ++ [v.extractLsb' (8 * n) 8] := by
  simp [lanes, List.range_succ]

theorem beUnpack_lanes_succ {m w n : Nat} {v : BitVec w} {x : BitVec m} (w' : Nat)
    (h : beUnpack w' (lanes n v) = x.setWidth w') :
    beUnpack w' (lanes (n + 1) v) = (x ++ v.extractLsb' (8 * n) 8).setWidth w' := by
  rw [lanes_succ, beUnpack_concat, h, setWidth_append_byte]

theorem beUnpack_lanes_one {w : Nat} (w' : Nat) (v : BitVec w) :
    beUnpack w' (lanes 1 v) = (v.extractLsb' 0 8).setWidth w' := by
  simp [lanes, beUnpack]

theorem beUnpack_lanes_two {w : Nat} (w' : Nat) (v : BitVec w) :
    beUnpack w' (lanes 2 v) = (v.extractLsb' 0 8 ++ v.extractLsb' 8 8).setWidth w' :=
  beUnpack_lanes_succ w' (beUnpack_lanes_one w' v)

theorem beUnpack_lanes_four {w : Nat} (w' : Nat) (v : BitVec w) :
    beUnpack w' (lanes 4 v) =
      (v.extractLsb' 0 8 ++ v.extractLsb' 8 8 ++ v.extractLsb' 16 8 ++ v.extractLsb' 24 8).setWidth w' :=
  beUnpack_lanes_succ w' (beUnpack_lanes_succ w' (beUnpack_lanes_two w' v))

theorem beUnpack_lanes_eight {w : Nat} (w' : Nat) (v : BitVec w) :
    beUnpack w' (lanes 8 v) =
      (v.extractLsb' 0 8 ++ v.extractLsb' 8 8 ++ v.extractLsb' 16 8 ++ v.extractLsb' 24 8 ++
        v.extractLsb' 32 8 ++ v.extractLsb' 40 8 ++ v.extractLsb' 48 8 ++ v.extractLsb' 56 8).setWidth w' :=
  beUnpack_lanes_succ w' (beUnpack_lanes_succ w' (beUnpack_lanes_succ w' (beUnpack_lanes_succ w'
    (beUnpack_lanes_four w' v))))

/-! ## The packs by way of `be_unpack_n` -/

/-- Lane 0 of a vector is its lowest byte: the vector reads its bytes backwards. -/
theorem ofLanes_eq_beUnpack_reverse (s : List Byte) : ofLanes s = beUnpack 64 s.reverse := by
  induction s with
  | nil => rfl
  | cons b bs ih => rw [List.reverse_cons, beUnpack_concat, ← ih, ofLanes]

/-- Wire order is lane order turned around. -/
theorem bePack_reverse {w : Nat} (n : Nat) (v : BitVec w) : (bePack n v).reverse = lanes n v := by
  apply List.ext_getElem
  · simp
  · intro k hk _
    have hk : k < n := by simpa using hk
    simp [bePack, lanes, show n - 1 - (n - 1 - k) = k by omega]

theorem ofLanes_bePack {w : Nat} (n : Nat) (v : BitVec w) : ofLanes (bePack n v) = beUnpack 64 (lanes n v) := by
  rw [ofLanes_eq_beUnpack_reverse, bePack_reverse]

/-- A pack returns the bytes of its operand from the lowest to the highest, put together big-endian. -/
theorem State.bePackOp_eq_finish {w m n : Nat} {v : BitVec w} {x : BitVec m} (s : State)
    (h : beUnpack 64 (lanes n v) = x.setWidth 64) : s.bePackOp n v = s.finish (x.setWidth 64) false := by
  rw [State.bePackOp, ofLanes_bePack, h]

/-! ## `be_pack_n` byte by byte, `be_unpack_n` as a number -/

theorem bePack_getD {w n k : Nat} (v : BitVec w) (hk : k < n) :
    (bePack n v).getD k 0 = v.extractLsb' (8 * (n - 1 - k)) 8 := by
  simp [bePack, hk]

/-- One step of `be_unpack_n` (R121) in base 256, while the byte shifted in pushes none out. -/
theorem toNat_shiftLeft_or_byte {w : Nat} (acc : BitVec w) (b : Byte) (hw : 8 ≤ w)
    (h : acc.toNat < 2 ^ (w - 8)) : (acc <<< 8 ||| b.setWidth w).toNat = b.toNat + 256 * acc.toNat := by
  have hacc : acc.toNat <<< 8 < 2 ^ w := by
    calc acc.toNat <<< 8 = acc.toNat * 2 ^ 8 := Nat.shiftLeft_eq _ _
      _ < 2 ^ (w - 8) * 2 ^ 8 := Nat.mul_lt_mul_of_pos_right h (by decide)
      _ = 2 ^ w := by rw [← Nat.pow_add, Nat.sub_add_cancel hw]
  rw [BitVec.toNat_or, BitVec.toNat_shiftLeft, BitVec.toNat_setWidth_of_le hw, Nat.mod_eq_of_lt hacc,
    ← Nat.shiftLeft_add_eq_or_of_lt b.isLt, Nat.shiftLeft_eq]
  omega

/-- A byte sequence that fits the width is unpacked to the number it spells in base 256, last byte first. -/
theorem toNat_beUnpack {w : Nat} (s : List Byte) (h : 8 * s.length ≤ w) :
    (beUnpack w s).toNat = Nat.ofDigits 256 (s.reverse.map BitVec.toNat) := by
  induction s using List.reverseRecOn with
  | nil => simp
  | append_singleton s b ih =>
    have hlen : 8 * s.length + 8 ≤ w := by simpa [Nat.mul_add] using h
    have ih := ih (by omega)
    have hdigits : ∀ d ∈ s.reverse.map BitVec.toNat, d < 256 := by
      intro d hd
      obtain ⟨c, -, rfl⟩ := List.mem_map.1 hd
      exact c.isLt
    have hlt : (beUnpack w s).toNat < 2 ^ (w - 8) := by
      calc (beUnpack w s).toNat < 256 ^ s.length := by
            simpa [ih] using Nat.ofDigits_lt_base_pow_length (by decide) hdigits
        _ = 2 ^ (8 * s.length) := by rw [Nat.pow_mul]
        _ ≤ 2 ^ (w - 8) := Nat.pow_le_pow_right (by decide) (by omega)
    rw [beUnpack_concat, toNat_shiftLeft_or_byte _ b (by omega) hlt, ih, List.reverse_concat, List.map_cons,
      Nat.ofDigits_cons]

/-- Once the bytes fit, a wider result is the zero extension. -/
theorem setWidth_beUnpack {w w' : Nat} (s : List Byte) (h : 8 * s.length ≤ w) (hw : w ≤ w') :
    (beUnpack w s).setWidth w' = beUnpack w' s := by
  apply BitVec.eq_of_toNat_eq
  rw [BitVec.toNat_setWidth_of_le hw, toNat_beUnpack s h, toNat_beUnpack s (h.trans hw)]

/-- The number a byte sequence spells, written as the sum of its bytes' weights. -/
theorem ofDigits_reverse_eq_sum (s : List Byte) :
    Nat.ofDigits 256 (s.reverse.map BitVec.toNat) =
      ((List.range s.length).map fun k => (s.getD k 0).toNat * 256 ^ (s.length - 1 - k)).sum := by
  induction s with
  | nil => rfl
  | cons b s ih =>
    have hweight : ∀ k, s.length + 1 - 1 - (k + 1) = s.length - 1 - k := by omega
    rw [List.reverse_cons, List.map_append, Nat.ofDigits_append, ih, List.length_cons, List.range_succ_eq_map]
    simp only [List.map_cons, List.map_nil, List.map_map, Function.comp_def, List.sum_cons, List.getD_cons_zero,
      List.getD_cons_succ, Nat.succ_eq_add_one, hweight]
    rw [Nat.ofDigits_singleton, List.length_map, List.length_reverse, Nat.add_sub_cancel, Nat.sub_zero]
    ring

end Machine

/-- Settles O19: by the definition of `be_pack_n`, and by induction on the bytes of `be_unpack_n`; neither rests on
which widths the block has. -/
theorem beFunctionsAreBigEndian : Obligations.BeFunctionsAreBigEndian := by
  unfold Obligations.BeFunctionsAreBigEndian
  rintro n -
  refine ⟨fun v => ⟨Machine.bePack_length n v, fun k hk => Machine.bePack_getD v hk⟩, ?_⟩
  rintro s rfl
  rw [Machine.toNat_beUnpack s le_rfl, Machine.ofDigits_reverse_eq_sum]

/-! ## The words -/

theorem decodeOp_eq_bePack8_iff (w : OpWord) (v : BitVec 8) : decodeOp w = .ok (.bePack8 v) ↔ w = opWordArg 0x40 v :=
  decodeOp_eq_ok_iff_eq_opWordArg (by decide) 0x40 (fun _ _ => Instr.bePack8.inj) (fun _ => rfl)
    (fun _ h => by simp [decodeOp, h]) w v

theorem decodeOp_eq_bePack16_iff (w : OpWord) (v : BitVec 16) :
    decodeOp w = .ok (.bePack16 v) ↔ w = opWordArg 0x41 v :=
  decodeOp_eq_ok_iff_eq_opWordArg (by decide) 0x41 (fun _ _ => Instr.bePack16.inj) (fun _ => rfl)
    (fun _ h => by simp [decodeOp, h]) w v

theorem decodeOp_eq_bePack32_iff (w : OpWord) (v : BitVec 32) :
    decodeOp w = .ok (.bePack32 v) ↔ w = opWordArg 0x42 v :=
  decodeOp_eq_ok_iff_eq_opWordArg (by decide) 0x42 (fun _ _ => Instr.bePack32.inj) (fun _ => rfl)
    (fun _ h => by simp [decodeOp, h]) w v

theorem decodeOp_eq_bePack64_iff (w : OpWord) (v : BitVec 64) :
    decodeOp w = .ok (.bePack64 v) ↔ w = opWordArg 0x43 v :=
  decodeOp_eq_ok_iff_eq_opWordArg (by decide) 0x43 (fun _ _ => Instr.bePack64.inj) (fun _ => rfl)
    (fun _ h => by simp [decodeOp, h]) w v

theorem decodeOp_eq_beUnpack8_iff (w : OpWord) (v : BitVec 8) :
    decodeOp w = .ok (.beUnpack8 v) ↔ w = opWordArg 0x48 v :=
  decodeOp_eq_ok_iff_eq_opWordArg (by decide) 0x48 (fun _ _ => Instr.beUnpack8.inj) (fun _ => rfl)
    (fun _ h => by simp [decodeOp, h]) w v

theorem decodeOp_eq_beUnpack16_iff (w : OpWord) (v : BitVec 16) :
    decodeOp w = .ok (.beUnpack16 v) ↔ w = opWordArg 0x49 v :=
  decodeOp_eq_ok_iff_eq_opWordArg (by decide) 0x49 (fun _ _ => Instr.beUnpack16.inj) (fun _ => rfl)
    (fun _ h => by simp [decodeOp, h]) w v

theorem decodeOp_eq_beUnpack32_iff (w : OpWord) (v : BitVec 32) :
    decodeOp w = .ok (.beUnpack32 v) ↔ w = opWordArg 0x4A v :=
  decodeOp_eq_ok_iff_eq_opWordArg (by decide) 0x4A (fun _ _ => Instr.beUnpack32.inj) (fun _ => rfl)
    (fun _ h => by simp [decodeOp, h]) w v

theorem decodeOp_eq_beUnpack64_iff (w : OpWord) (v : BitVec 64) :
    decodeOp w = .ok (.beUnpack64 v) ↔ w = opWordArg 0x4B v :=
  decodeOp_eq_ok_iff_eq_opWordArg (by decide) 0x4B (fun _ _ => Instr.beUnpack64.inj) (fun _ => rfl)
    (fun _ h => by simp [decodeOp, h]) w v

/-! ## The whole next states -/

namespace Machine

theorem exec_bePack8 (v : BitVec 8) (s : State) : exec (.bePack8 v) s = .next (s.finish (v.setWidth 64) false) := by
  have h := s.bePackOp_eq_finish (beUnpack_lanes_one 64 v)
  rw [BitVec.extractLsb'_eq_self] at h
  exact congrArg Host.Outcome.next h

theorem exec_bePack16 (v : BitVec 16) (s : State) :
    exec (.bePack16 v) s = .next (s.finish ((v.extractLsb' 0 8 ++ v.extractLsb' 8 8).setWidth 64) false) :=
  congrArg Host.Outcome.next (s.bePackOp_eq_finish (beUnpack_lanes_two 64 v))

theorem exec_bePack32 (v : BitVec 32) (s : State) :
    exec (.bePack32 v) s = .next (s.finish
      ((v.extractLsb' 0 8 ++ v.extractLsb' 8 8 ++ v.extractLsb' 16 8 ++ v.extractLsb' 24 8).setWidth 64) false) :=
  congrArg Host.Outcome.next (s.bePackOp_eq_finish (beUnpack_lanes_four 64 v))

theorem exec_bePack64 (v : BitVec 64) (s : State) :
    exec (.bePack64 v) s = .next (s.finish
      (v.extractLsb' 0 8 ++ v.extractLsb' 8 8 ++ v.extractLsb' 16 8 ++ v.extractLsb' 24 8 ++
        v.extractLsb' 32 8 ++ v.extractLsb' 40 8 ++ v.extractLsb' 48 8 ++ v.extractLsb' 56 8) false) := by
  have h := s.bePackOp_eq_finish (beUnpack_lanes_eight 64 v)
  rw [BitVec.setWidth_eq] at h
  exact congrArg Host.Outcome.next h

/-- Turning the bytes of an operand around is its own inverse, so that a pack and an unpack of one width have one
effect. -/
theorem State.beUnpackOp_eq_bePackOp {w n : Nat} (s : State) (v : BitVec w) (hn : 8 * n ≤ w) (hw : w ≤ 64) :
    s.beUnpackOp n v = s.bePackOp n v := by
  rw [State.beUnpackOp, State.bePackOp, ofLanes_bePack, setWidth_beUnpack _ (by rwa [lanes_length]) hw]

theorem exec_beUnpack8_eq_exec_bePack8 (v : BitVec 8) (s : State) :
    exec (.beUnpack8 v) s = exec (.bePack8 v) s :=
  congrArg Host.Outcome.next (s.beUnpackOp_eq_bePackOp v (by decide) (by decide))

theorem exec_beUnpack16_eq_exec_bePack16 (v : BitVec 16) (s : State) :
    exec (.beUnpack16 v) s = exec (.bePack16 v) s :=
  congrArg Host.Outcome.next (s.beUnpackOp_eq_bePackOp v (by decide) (by decide))

theorem exec_beUnpack32_eq_exec_bePack32 (v : BitVec 32) (s : State) :
    exec (.beUnpack32 v) s = exec (.bePack32 v) s :=
  congrArg Host.Outcome.next (s.beUnpackOp_eq_bePackOp v (by decide) (by decide))

theorem exec_beUnpack64_eq_exec_bePack64 (v : BitVec 64) (s : State) :
    exec (.beUnpack64 v) s = exec (.bePack64 v) s :=
  congrArg Host.Outcome.next (s.beUnpackOp_eq_bePackOp v (by decide) (by decide))

end Machine

/-- Settles O17: the words by their fields, the next states by the concatenation each pack's lanes come to. -/
theorem bePackResults : Obligations.BePackResults := by
  unfold Obligations.BePackResults
  intro s v8 v16 v32 v64 w
  have hword64 := decodeOp_eq_bePack64_iff w v64
  rw [opWordArg, BitVec.setWidth_eq] at hword64
  exact ⟨decodeOp_eq_bePack8_iff w v8, Machine.exec_bePack8 v8 s,
    decodeOp_eq_bePack16_iff w v16, Machine.exec_bePack16 v16 s,
    decodeOp_eq_bePack32_iff w v32, Machine.exec_bePack32 v32 s,
    hword64, Machine.exec_bePack64 v64 s⟩

/-- Settles O18: the words by their fields, the next states by those of the packs of the same width. -/
theorem beUnpackResults : Obligations.BeUnpackResults := by
  unfold Obligations.BeUnpackResults
  intro s v8 v16 v32 v64 w
  have hword64 := decodeOp_eq_beUnpack64_iff w v64
  rw [opWordArg, BitVec.setWidth_eq] at hword64
  exact ⟨decodeOp_eq_beUnpack8_iff w v8,
      (Machine.exec_beUnpack8_eq_exec_bePack8 v8 s).trans (Machine.exec_bePack8 v8 s),
    decodeOp_eq_beUnpack16_iff w v16,
      (Machine.exec_beUnpack16_eq_exec_bePack16 v16 s).trans (Machine.exec_bePack16 v16 s),
    decodeOp_eq_beUnpack32_iff w v32,
      (Machine.exec_beUnpack32_eq_exec_bePack32 v32 s).trans (Machine.exec_bePack32 v32 s),
    hword64,
      (Machine.exec_beUnpack64_eq_exec_bePack64 v64 s).trans (Machine.exec_bePack64 v64 s)⟩

end Sys2Proof
end

section
/-! PROOF. The arms of `SYNC.PUT` (42_sync_put.md R141 to R146), in the words of the statements: the two ways a step
on a byte goes on from its arm, what each arm leaves, and the whole next state of each. -/

namespace Sys2Proof

namespace Machine

/-! ## From an arm to the end of the operation -/

theorem exec_syncPut_of_raise {b : Byte} {s t : State} {cause : RejectCause} (hlen : s.len.toNat < 247)
    (h : dispatchArm b s = .raise cause t) : exec (.syncPut b) s = .next (rejected t cause) := by
  rw [exec_syncPut, syncNext, overSizeGuard_of_lt hlen, h]
  rfl

theorem exec_syncPut_of_store {b : Byte} {s t : State} (hlen : s.len.toNat < 247) (h : dispatchArm b s = .store t) :
    exec (.syncPut b) s = .next (afterStoreNext (stored b t)) := by
  rw [exec_syncPut, syncNext, overSizeGuard_of_lt hlen, h]

/-- The store leaves `len` one higher: no arm writes it. -/
theorem stored_len_of_store {b : Byte} {s t : State} (hlen : s.len.toNat < 247) (h : dispatchArm b s = .store t) :
    (stored b t).len.toNat = s.len.toNat + 1 := by
  have hframe : t.len = s.len := by simpa [h, ArmEnd.state] using (dispatchArm_frame b s).len
  rw [stored_len b (by rwa [hframe]), hframe]

/-- No candidate is complete before its seventh byte (R147). -/
theorem afterStoreNext_of_lt {g : State} (h : g.len.toNat < 7) : afterStoreNext g = growing g := by
  have hgrowing : g.complete = false := by simp [State.complete, h]
  rw [afterStoreNext, hgrowing]
  rfl

/-- The end of a completed candidate (R148, R149). -/
theorem completed_eq (g : State) :
    completed g =
      if g.crcMatches then parsedEnd g (bodyParse (Memory.slice g.buf 0 g.len.toNat) g.msg) else g.reject .crc := by
  rw [completed]
  by_cases hcrc : g.crcHeader = g.crcBody
  · have hmatch : g.crcMatches = true := by simpa [State.crcMatches] using hcrc
    rw [if_neg (not_not_intro hcrc), if_pos hmatch]
    rcases bodyParse (Memory.slice g.buf 0 g.len.toNat) g.msg with ⟨m, _ | _⟩ <;> rfl
  · have hmatch : ¬ g.crcMatches = true := by simpa [State.crcMatches] using hcrc
    rw [if_pos hcrc, if_neg hmatch]
    rfl

/-- From the seventh byte on the counters decide (R147). -/
theorem afterStoreNext_of_ge {g : State} (h : 7 ≤ g.len.toNat) : afterStoreNext g = afterBodyByte g := by
  have hcomplete : g.complete = true ↔ g.remainingObjects = 0 ∧ g.remainingBytes = 0 := by
    simp [State.complete, h]
  rw [afterStoreNext, afterBodyByte, completed_eq, if_congr hcomplete rfl rfl]
  rfl

theorem exec_syncPut_of_store_before_count {b : Byte} {s t : State} (hlen : s.len.toNat < 6)
    (h : dispatchArm b s = .store t) : exec (.syncPut b) s = .next (growing (stored b t)) := by
  have hstored := stored_len_of_store (by omega) h
  rw [exec_syncPut_of_store (by omega) h, afterStoreNext_of_lt (by omega)]

theorem exec_syncPut_of_store_from_count {b : Byte} {s t : State} (hlen : 6 ≤ s.len.toNat) (hlt : s.len.toNat < 247)
    (h : dispatchArm b s = .store t) : exec (.syncPut b) s = .next (afterBodyByte (stored b t)) := by
  have hstored := stored_len_of_store hlt h
  rw [exec_syncPut_of_store hlt h, afterStoreNext_of_ge (by omega)]

/-! ## The count byte as a signed number (R145) -/

theorem countOf_eq (b : Byte) : countOf b = (b.toNat : Int) - 0x90 := rfl

/-- Nine bits hold every count: it lies between −144 and 111. -/
theorem toInt_ofInt_countOf (b : Byte) : (BitVec.ofInt 9 (countOf b)).toInt = countOf b := by
  have hb := b.isLt
  rw [countOf_eq, BitVec.toInt_ofInt]
  exact Int.bmod_eq_of_le (by omega) (by omega)

/-! ## What each arm leaves (R142 to R146) -/

theorem armHdr0_of_ne {b : Byte} (s : State) (h : b ≠ 0x92) : armHdr0 b s = .raise .hdr0 s := if_neg h

theorem armHdr1_of_ne {b : Byte} (s : State) (h : b ≠ 0xCE) : armHdr1 b s = .raise .hdr1 s := if_neg h

theorem armCount_of_ge {b : Byte} (s : State) (h : 0xA0 ≤ b.toNat) :
    armCount b s = .raise .count { s with remainingObjects := BitVec.ofInt 9 (countOf b) } := by
  have hcount : 15 < countOf b := by rw [countOf_eq]; omega
  exact if_pos (by rwa [toInt_ofInt_countOf])

theorem armCount_of_lt {b : Byte} (s : State) (h : b.toNat < 0xA0) :
    armCount b s = .store { s with
      remainingObjects := BitVec.ofInt 9 (countOf b), remainingBytes := 0, crcBody := crcFeed s.crcBody b } := by
  have hcount : ¬ 15 < countOf b := by rw [countOf_eq]; omega
  exact if_neg (by rwa [toInt_ofInt_countOf])

theorem armBody_of_payload {s : State} (b : Byte) (h : s.remainingBytes ≠ 0) :
    armBody b s = .store { s with remainingBytes := s.remainingBytes - 1, crcBody := crcFeed s.crcBody b } :=
  if_pos (Nat.pos_of_ne_zero (BitVec.toNat_ne.1 h))

theorem armBody_of_tag {b : Byte} {s : State} {tag : Tag} (hbytes : s.remainingBytes = 0)
    (hobjects : 0 < s.remainingObjects.toInt) (htag : decodeTag b = some tag) :
    armBody b s = .store { s with
      remainingObjects := s.remainingObjects - 1
      remainingBytes := BitVec.ofNat 4 (payLen tag)
      crcBody := crcFeed s.crcBody b } := by
  simp [armBody, hbytes, hobjects, htag]

theorem armBody_of_unknownTag {b : Byte} {s : State} (hbytes : s.remainingBytes = 0)
    (hobjects : 0 < s.remainingObjects.toInt) (htag : decodeTag b = none) :
    armBody b s = .raise .tag { s with remainingObjects := s.remainingObjects - 1 } := by
  simp [armBody, hbytes, hobjects, htag]

theorem armBody_of_surplus {s : State} (b : Byte) (hbytes : s.remainingBytes = 0)
    (hobjects : s.remainingObjects.toInt ≤ 0) : armBody b s = .raise .surplus s := by
  simp [armBody, hbytes, Int.not_lt.2 hobjects]

end Machine

open Machine

/-- Settles O28: arms HDR0 and HDR1 at `len` 0 and 1, where no candidate is complete yet. -/
theorem headerBytesAreStoredOrRejected : Obligations.HeaderBytesAreStoredOrRejected := by
  unfold Obligations.HeaderBytesAreStoredOrRejected
  refine fun s b => ⟨fun h => ?_, fun h => ?_⟩
  · have hlen : s.len.toNat = 0 := by rw [h]; rfl
    constructor
    · rw [exec_syncPut_of_store_before_count (by omega) (dispatchArm_hdr0 hlen), stored, h]
      rfl
    · intro hb
      exact exec_syncPut_of_raise (by omega) ((dispatchArm_hdr0 hlen).trans (armHdr0_of_ne s hb))
  · have hlen : s.len.toNat = 1 := by rw [h]; rfl
    constructor
    · rw [exec_syncPut_of_store_before_count (by omega) (dispatchArm_hdr1 hlen), stored, h]
      rfl
    · intro hb
      exact exec_syncPut_of_raise (by omega) ((dispatchArm_hdr1 hlen).trans (armHdr1_of_ne s hb))

/-- Settles O29: arm CRCFIELD always stores, and no candidate of six bytes is complete. -/
theorem crcFieldByteIsShiftedIn : Obligations.CrcFieldByteIsShiftedIn := by
  unfold Obligations.CrcFieldByteIsShiftedIn
  exact fun s b hlo hhi => exec_syncPut_of_store_before_count (by omega) (dispatchArm_crcField hlo hhi)

/-- Settles O30: the count fits nine bits, so that arm COUNT's test is `0xA0 ≤ b`. -/
theorem countByteSetsTheCounters : Obligations.CountByteSetsTheCounters := by
  unfold Obligations.CountByteSetsTheCounters
  intro s b h
  have hlen : s.len.toNat = 6 := by rw [h]; rfl
  refine ⟨toInt_ofInt_countOf b, fun hb => ?_, fun hb => ?_⟩
  · exact exec_syncPut_of_raise (by omega) ((dispatchArm_count hlen).trans (armCount_of_ge s hb))
  · exact exec_syncPut_of_store_from_count (by omega) (by omega)
      ((dispatchArm_count hlen).trans (armCount_of_lt s hb))

/-- Settles O31: one equation of arm BODY for each branch. -/
theorem bodyByteByBranch : Obligations.BodyByteByBranch := by
  unfold Obligations.BodyByteByBranch
  intro s b hlo hhi
  have harm : dispatchArm b s = armBody b s := dispatchArm_body hlo
  refine ⟨fun hbytes => ?_, fun hbytes hobjects => ⟨fun tag htag => ?_, fun htag => ?_⟩, fun hbytes hobjects => ?_⟩
  · exact exec_syncPut_of_store_from_count (by omega) hhi (harm.trans (armBody_of_payload b hbytes))
  · exact exec_syncPut_of_store_from_count (by omega) hhi (harm.trans (armBody_of_tag hbytes hobjects htag))
  · exact exec_syncPut_of_raise hhi (harm.trans (armBody_of_unknownTag hbytes hobjects htag))
  · exact exec_syncPut_of_raise hhi (harm.trans (armBody_of_surplus b hbytes hobjects))

/-- Settles O27: the over-size guard leaves the one state that it leaves with `len = 0`. -/
theorem overSizeByteStartsANewCandidate : Obligations.OverSizeByteStartsANewCandidate := by
  unfold Obligations.OverSizeByteStartsANewCandidate
  intro s b h
  have hguard : overSizeGuard s = overSizeGuard { s with len := 0 } := by
    rw [overSizeGuard_of_ge h, overSizeGuard_of_lt (by simp)]
  rw [exec_syncPut, exec_syncPut, syncNext, syncNext, hguard]

end Sys2Proof
end

section
/-! PROOF. The reads of the staged message (43_body_decode_msg.md R174 to R179): the one word of each, and the
result as a read of the slot below `msg.len`. -/

namespace Sys2Proof

/-- An index below 15 is not the reserved one (R73). -/
theorem ne_fifteen_of_toNat_lt {k : Nibble} (h : k.toNat < 15) : k ≠ 15 := by
  rintro rfl
  exact absurd h (by decide)

/-! ## The words -/

/-- The opcode of a word that decodes is the opcode of the decoded instruction's row. -/
theorem opcode_of_decodeOp {w : OpWord} {i : Instr} (h : decodeOp w = .ok i) :
    OpWord.opcode w = OpWord.opcode i.row.pattern := by
  obtain ⟨hmem, hspells⟩ := row_spells_of_decodeOp h
  exact TableRow.opcode_of_spells hmem hspells

/-- An operation whose arm of the decoder reads `i` alone is spelled by one word for each slot. -/
theorem decodeOp_slot_eq_ok_iff_eq_opWord (o : BitVec 8) {op : Nibble → Instr}
    (hinj : Function.Injective op) (hrow : ∀ i, (op i).row = slotRow o)
    (harm : ∀ w, OpWord.opcode w = o → decodeOp w = decodeSlot w op) (w : OpWord) {i : Nibble} (hi : i ≠ 15) :
    decodeOp w = .ok (op i) ↔ w = opWord o 0 i 0 := by
  have hopcode : decodeOp w = .ok (op i) → OpWord.opcode w = o := fun h => by
    rw [opcode_of_decodeOp h, hrow]
    exact opcode_opWord o 0 0 0
  rw [eq_opWord_iff, ← and_iff_right_of_imp hopcode]
  refine and_congr_right fun ho => ?_
  rw [harm w ho, decodeSlot_eq_ok_iff, hinj.eq_iff]
  constructor
  · rintro ⟨⟨⟨hj, harg⟩, -⟩, hw⟩
    exact ⟨hj, hw, harg⟩
  · rintro ⟨hj, hw, harg⟩
    exact ⟨⟨⟨hj, harg⟩, hw ▸ hi⟩, hw⟩

/-- The one word that spells `MSG.LEN` (R174). -/
theorem decodeOp_eq_msgLen_iff (w : OpWord) : decodeOp w = .ok .msgLen ↔ w = opWord 0x30 0 0 0 :=
  decodeOp_eq_ok_iff_eq_opWordArg (n := 0) (op := fun _ => .msgLen) (by decide) 0x30
    (fun _ _ _ => Subsingleton.elim _ _) (fun _ => rfl) (fun _ h => by simp [decodeOp, h]) w 0

/-- The one word that spells `MSG.KIND i` (R175). -/
theorem decodeOp_eq_msgKind_iff (w : OpWord) {i : Nibble} (hi : i ≠ 15) :
    decodeOp w = .ok (.msgKind i) ↔ w = opWord 0x31 0 i 0 :=
  decodeOp_slot_eq_ok_iff_eq_opWord 0x31 (fun _ _ => Instr.msgKind.inj) (fun _ => rfl)
    (fun _ h => by simp [decodeOp, h]) w hi

/-- The one word that spells `MSG.VAL i` (R176). -/
theorem decodeOp_eq_msgVal_iff (w : OpWord) {i : Nibble} (hi : i ≠ 15) :
    decodeOp w = .ok (.msgVal i) ↔ w = opWord 0x32 0 i 0 :=
  decodeOp_slot_eq_ok_iff_eq_opWord 0x32 (fun _ _ => Instr.msgVal.inj) (fun _ => rfl)
    (fun _ h => by simp [decodeOp, h]) w hi

/-- The one word that spells `MSG.SLEN i` (R177). -/
theorem decodeOp_eq_msgSlen_iff (w : OpWord) {i : Nibble} (hi : i ≠ 15) :
    decodeOp w = .ok (.msgSlen i) ↔ w = opWord 0x33 0 i 0 :=
  decodeOp_slot_eq_ok_iff_eq_opWord 0x33 (fun _ _ => Instr.msgSlen.inj) (fun _ => rfl)
    (fun _ h => by simp [decodeOp, h]) w hi

/-- The one word that spells `MSG.STRB i, j` (R178). -/
theorem decodeOp_eq_msgStrb_iff (w : OpWord) {i j : Nibble} (hi : i ≠ 15) (hj : j ≠ 15) :
    decodeOp w = .ok (.msgStrb i j) ↔ w = opWord 0x34 j i 0 := by
  have hopcode : decodeOp w = .ok (.msgStrb i j) → OpWord.opcode w = 0x34 := fun h =>
    (opcode_of_decodeOp h).trans (opcode_opWord 0x34 0 0 0)
  rw [eq_opWord_iff, ← and_iff_right_of_imp hopcode]
  refine and_congr_right fun ho => ?_
  have harm : decodeOp w = decodeSlotByte w .msgStrb := by simp [decodeOp, ho]
  rw [harm, decodeSlotByte_eq_ok_iff, Instr.msgStrb.injEq]
  constructor
  · rintro ⟨⟨harg, -, -⟩, hwi, hwj⟩
    exact ⟨hwj, hwi, harg⟩
  · rintro ⟨hwj, hwi, harg⟩
    exact ⟨⟨harg, hwi ▸ hi, hwj ▸ hj⟩, hwi, hwj⟩

namespace Machine

/-! ## The slots -/

theorem Message.slot_eq_getElem (m : Message) {i : Nat} (hi : i < 15) : m.slot i = m.obj[i] := by
  simp [Message.slot, hi]

theorem State.slotDefined_eq_true {s : State} {i : Nibble} (hvalid : s.msgValid = true)
    (hi : i.toNat < s.msg.len.toNat) : s.slotDefined i = true := by
  simp [State.slotDefined, hvalid, hi]

theorem State.slotDefined_eq_false {s : State} {i : Nibble}
    (h : s.msgValid = false ∨ s.msg.len.toNat ≤ i.toNat) : s.slotDefined i = false := by
  rcases h with hvalid | hi
  · simp [State.slotDefined, hvalid]
  · simp [State.slotDefined, hi]

/-! ## The reads -/

theorem exec_msgLen (s : State) : exec .msgLen s = .next (s.readStaged s.msgValid (s.msg.len.setWidth 64)) := rfl

theorem exec_msgKind {i : Nibble} (hi : i ≠ 15) (s : State) :
    exec (.msgKind i) s = .next (s.readStaged (s.slotDefined i) ((s.msg.slot i.toNat).kind.setWidth 64)) :=
  readSlot_eq hi (fun o => o.kind.setWidth 64) s

theorem exec_msgVal {i : Nibble} (hi : i ≠ 15) (s : State) :
    exec (.msgVal i) s = .next (s.readStaged (s.slotDefined i) (s.msg.slot i.toNat).val) :=
  readSlot_eq hi (fun o => o.val) s

theorem exec_msgSlen {i : Nibble} (hi : i ≠ 15) (s : State) :
    exec (.msgSlen i) s = .next (s.readStaged (s.slotDefined i) ((s.msg.slot i.toNat).slen.setWidth 64)) :=
  readSlot_eq hi (fun o => o.slen.setWidth 64) s

theorem exec_msgStrb {i j : Nibble} (hi : i ≠ 15) (hj : j ≠ 15) (s : State) :
    exec (.msgStrb i j) s =
      .next (s.readStaged (s.slotDefined i) (((s.msg.slot i.toNat).str.toList.getD j.toNat 0).setWidth 64)) := by
  have hbyte : byteIndexOk j = true := by simpa [byteIndexOk] using hj
  exact (if_pos hbyte).trans (readSlot_eq hi (fun o => (o.str.toList.getD j.toNat 0).setWidth 64) s)

/-- What the four indexed reads have in common (R179): each reads some value where the slot is defined. -/
theorem exec_indexedRead {i j : Nibble} (hi : i ≠ 15) (hj : j ≠ 15) (s : State) :
    ∀ op ∈ [Instr.msgKind i, .msgVal i, .msgSlen i, .msgStrb i j],
      ∃ value, exec op s = .next (s.readStaged (s.slotDefined i) value) := by
  simp only [List.forall_mem_cons]
  exact ⟨⟨_, exec_msgKind hi s⟩, ⟨_, exec_msgVal hi s⟩, ⟨_, exec_msgSlen hi s⟩,
    ⟨_, exec_msgStrb hi hj s⟩, by simp⟩

end Machine

open Machine

/-- Settles O21: the words by their fields; every read is one `readStaged`, defined or not as R179 says. -/
theorem messageReadsByTheWindow : Obligations.MessageReadsByTheWindow := by
  unfold Obligations.MessageReadsByTheWindow
  refine fun s i j w => ⟨decodeOp_eq_msgLen_iff w, fun hvalid => ?_, fun hvalid => ?_, fun hi hj => ?_⟩
  · have hread := exec_msgLen s
    rwa [hvalid] at hread
  · have hread := exec_msgLen s
    rw [hvalid] at hread
    exact ⟨_, _, hread⟩
  · have hi' := ne_fifteen_of_toNat_lt hi
    have hj' := ne_fifteen_of_toNat_lt hj
    refine ⟨decodeOp_eq_msgKind_iff w hi', decodeOp_eq_msgVal_iff w hi', decodeOp_eq_msgSlen_iff w hi',
      decodeOp_eq_msgStrb_iff w hi' hj', fun hvalid hlen => ?_, fun hundefined op hop => ?_⟩
    · have hbyte : s.msg.obj[i.toNat].str.toList.getD j.toNat 0 = s.msg.obj[i.toNat].str[j.toNat] := by simp [hj]
      rw [exec_msgKind hi', exec_msgVal hi', exec_msgSlen hi', exec_msgStrb hi' hj',
        State.slotDefined_eq_true hvalid hlen, Message.slot_eq_getElem _ hi, hbyte]
      exact ⟨rfl, rfl, rfl, rfl⟩
    · obtain ⟨value, hread⟩ := exec_indexedRead hi' hj' s op hop
      rw [hread, State.slotDefined_eq_false hundefined]
      exact ⟨_, _, rfl⟩

end Sys2Proof
end

section
/-! PROOF. `DecodeObject` (43_body_decode_msg.md R171, R172): the slot of a number is one `be_unpack` at 64 bits
whatever its width, the slot of a String its octets and zeros. -/

namespace Sys2Proof

namespace Machine

/-- A number's payload fills the value's low bytes: the width its tag names does not show in the slot (R171). -/
theorem decodeObject_number {t : Tag} {payload : List Byte} (hbool : kindOfTag t ≠ .bool)
    (hstring : kindOfTag t ≠ .string) (hlen : payload.length = payLen t) :
    decodeObject t payload = scalarSlot (kindOfTag t) (beUnpack 64 payload) := by
  have hnarrow : ∀ w, 8 * payLen t ≤ w → w ≤ 64 → (beUnpack w payload).setWidth 64 = beUnpack 64 payload :=
    fun w hfit hw => setWidth_beUnpack payload (by rwa [hlen]) hw
  cases t with
  | boolFalse | boolTrue => exact absurd rfl hbool
  | string l => exact absurd rfl hstring
  | double | uint64 | int64 => rfl
  | uint8 | int8 => exact congrArg (scalarSlot _) (hnarrow 8 (by decide) (by decide))
  | uint16 | int16 => exact congrArg (scalarSlot _) (hnarrow 16 (by decide) (by decide))
  | uint32 | int32 | float => exact congrArg (scalarSlot _) (hnarrow 32 (by decide) (by decide))

theorem payLen_le_of_ne_string {t : Tag} (h : kindOfTag t ≠ .string) : payLen t ≤ 8 := by
  cases t with
  | string l => exact absurd rfl h
  | _ => decide

/-- The octets of a String stand verbatim, with zeros above them (R172). -/
theorem stringSlot_str_toList (l : Nibble) {octets : List Byte} (h : octets.length ≤ 15) :
    (stringSlot l octets).str.toList = octets ++ List.replicate (15 - octets.length) 0 := by
  apply List.ext_getElem
  · simp [h]
  · intro k hk _
    by_cases hoctet : k < octets.length
    · simp [stringSlot, hoctet]
    · simp [stringSlot, List.getElem_append_right (Nat.le_of_not_lt hoctet), Nat.le_of_not_lt hoctet]

end Machine

open Machine

/-- Settles O24: the Bools by their arms, the numbers by `be_unpack` at 64 bits, a String by its octets. -/
theorem decodedObjectFillsItsSlot : Obligations.DecodedObjectFillsItsSlot := by
  unfold Obligations.DecodedObjectFillsItsSlot
  refine ⟨fun payload => ⟨rfl, rfl⟩, fun row hrow payload hlen => ?_, fun l payload hlen => ?_⟩
  · obtain ⟨hbool, hstring, hpay, hkind⟩ : kindOfTag row.1 ≠ .bool ∧ kindOfTag row.1 ≠ .string ∧
        payLen row.1 = row.2.2 ∧ kindCode (kindOfTag row.1) = row.2.1 := by
      clear hlen
      revert row
      decide
    have hfit := payLen_le_of_ne_string hstring
    rw [decodeObject_number hbool hstring (hlen.trans hpay.symm)]
    refine ⟨hkind, ?_, rfl, rfl⟩
    rw [← hlen, ← ofDigits_reverse_eq_sum]
    exact toNat_beUnpack payload (by omega)
  · have hl := l.isLt
    refine ⟨rfl, rfl, rfl, ?_⟩
    rw [← hlen]
    exact stringSlot_str_toList l (by omega)

end Sys2Proof
end

section
/-! PROOF. Sizes (44_frame_reference.md R201, R202, R207): an encoded Object is as long as `obj_size` says, whatever
the slot holds; the frame's length and its bounds follow by sums. -/

namespace Sys2Proof

namespace Machine

/-- The arms of `EncodeObject` and of `obj_size` agree; a slot that is no Object has no bytes and size 0 (log 15). -/
theorem encodeObject_length (o : Slot) : (encodeObject o).length = objSize o := by
  unfold encodeObject objSize
  split
  case h_1 => split <;> rfl
  case h_12 =>
    have hslen := o.slen.isLt
    simp only [List.length_cons, List.length_take, Vector.length_toList]
    omega
  all_goals simp only [List.length_cons, List.length_nil, bePack_length]

/-- `FRAME_ENCODE` emits `msg_size` bytes: two header bytes, the CRC field, the count byte, the Objects. -/
theorem frameEncode_length (m : List Slot) : (frameEncode m).length = msgSize m := by
  have hbody : (frameBody m).length = (m.map objSize).sum + 1 := by
    simp only [frameBody, List.length_cons, List.length_flatMap, encodeObject_length]
  simp only [frameEncode, msgSize, List.length_append, List.length_cons, bePack_length, hbody]
  omega

theorem objSize_string {o : Slot} (hkind : o.kind = 12) : objSize o = 1 + o.slen.toNat := by
  simp [objSize, hkind]

theorem objSize_le (o : Slot) : objSize o ≤ 16 := by
  unfold objSize
  split
  case h_12 =>
    have hslen := o.slen.isLt
    omega
  all_goals decide

theorem seven_le_msgSize (m : List Slot) : 7 ≤ msgSize m := Nat.le_add_right 7 _

theorem msgSize_le (m : List Slot) : msgSize m ≤ 7 + m.length * 16 := by
  have hsum : (m.map objSize).sum ≤ (m.map objSize).length • 16 :=
    List.sum_le_card_nsmul _ _ (List.forall_mem_map.2 fun o _ => objSize_le o)
  rw [List.length_map, smul_eq_mul] at hsum
  exact Nat.add_le_add_left hsum 7

theorem msgSize_of_all_objSize {m : List Slot} {n : Nat} (h : ∀ o ∈ m, objSize o = n) :
    msgSize m = 7 + m.length * n := by
  rw [msgSize, List.sum_eq_card_nsmul _ n (List.forall_mem_map.2 h), List.length_map, smul_eq_mul]

theorem length_le_of_legalMessage {m : List Slot} (h : legalMessage m = true) : m.length ≤ 15 := by
  rw [legalMessage, Bool.and_eq_true, decide_eq_true_eq] at h
  exact h.1

end Machine

open Machine

/-- Settles O52: the frame has `msg_size` bytes, and at most fifteen Objects of at most sixteen bytes bound it. -/
theorem frameSizes : Obligations.FrameSizes := by
  unfold Obligations.FrameSizes
  refine ⟨frameEncode_length [], fun m hlen _ hfull => ?_, fun m hlegal => ?_, fun o _ => objSize_le o⟩
  · have hsize : ∀ o ∈ m, objSize o = 16 := fun o ho => by
      obtain ⟨hkind, hslen⟩ := hfull o ho
      rw [objSize_string hkind, hslen]
      rfl
    rw [frameEncode_length, msgSize_of_all_objSize hsize, hlen]
  · have hlen := length_le_of_legalMessage hlegal
    have hle := msgSize_le m
    exact ⟨frameEncode_length m, seven_le_msgSize m, by omega⟩

end Sys2Proof
end

section
/-! PROOF. `NOP` (45_system.md R230), `CRC.SEED` and `CRC.READ` (40_crc.md R105, R107): the one word of each and the
whole next state. -/

namespace Sys2Proof

/-! ## The words -/

/-- An operation whose arm of the decoder reads no operand is spelled by its opcode and zeros alone. -/
theorem decodeOp_eq_ok_iff_eq_opWord_of_noOperand (o : BitVec 8) {x : Instr} (hrow : x.row = argRow o 0)
    (harm : ∀ w, OpWord.opcode w = o → decodeOp w = decodeArg 0 w fun _ => x) (w : OpWord) :
    decodeOp w = .ok x ↔ w = opWord o 0 0 0 :=
  decodeOp_eq_ok_iff_eq_opWordArg (op := fun _ => x) (by decide) o (fun _ _ _ => Subsingleton.elim _ _)
    (fun _ => hrow) harm w 0

theorem decodeOp_eq_nop_iff (w : OpWord) : decodeOp w = .ok .nop ↔ w = opWord 0x00 0 0 0 :=
  decodeOp_eq_ok_iff_eq_opWord_of_noOperand 0x00 rfl (fun _ h => by simp [decodeOp, h]) w

theorem decodeOp_eq_crcSeed_iff (w : OpWord) (seed : Crc) :
    decodeOp w = .ok (.crcSeed seed) ↔ w = opWordArg 0x10 seed :=
  decodeOp_eq_ok_iff_eq_opWordArg (by decide) 0x10 (fun _ _ => Instr.crcSeed.inj) (fun _ => rfl)
    (fun _ h => by simp [decodeOp, h]) w seed

theorem decodeOp_eq_crcRead_iff (w : OpWord) : decodeOp w = .ok .crcRead ↔ w = opWord 0x12 0 0 0 :=
  decodeOp_eq_ok_iff_eq_opWord_of_noOperand 0x12 rfl (fun _ h => by simp [decodeOp, h]) w

/-! ## The whole next states -/

namespace Machine

theorem exec_nop (s : State) : exec .nop s = .next (s.finish 0 false) := rfl

theorem exec_crcSeed (seed : Crc) (s : State) :
    exec (.crcSeed seed) s = .next ({ s with crcAcc := seed }.finish 0 false) := rfl

theorem exec_crcRead (s : State) : exec .crcRead s = .next (s.finish (s.crcAcc.setWidth 64) false) := rfl

end Machine

/-- Settles O11: the words by their fields, the next states by the arms of `NOP`, `CRC.SEED` and `CRC.READ`. -/
theorem nopSeedReadResults : Obligations.NopSeedReadResults := by
  unfold Obligations.NopSeedReadResults
  exact fun s seed w => ⟨decodeOp_eq_nop_iff w, Machine.exec_nop s,
    decodeOp_eq_crcSeed_iff w seed, Machine.exec_crcSeed seed s,
    decodeOp_eq_crcRead_iff w, Machine.exec_crcRead s⟩

end Sys2Proof
end

section
/-! PROOF. The reject (60_exceptions.md R241, R252): the condition of each cause and the registers it is raised with,
said once. A byte meets the condition of a reject, or that of ready, or its candidate grows on; and each condition
settles the whole next state. -/

namespace Sys2Proof

namespace Machine

/-! ## The conditions -/

/-- The condition of a cause's row in the table of R241; what sets `CRC` and `BODY` apart is R148 and R149. -/
def rejectCondition (s : State) (b : Byte) : RejectCause → Prop
  | .hdr0 => offsetOf s = 0 ∧ b ≠ 0x92
  | .hdr1 => offsetOf s = 1 ∧ b ≠ 0xCE
  | .count => offsetOf s = 6 ∧ 0xA0 ≤ b.toNat
  | .tag => 7 ≤ offsetOf s ∧ s.remainingBytes = 0 ∧ 0 < s.remainingObjects.toInt ∧ decodeTag b = none
  | .surplus => 7 ≤ offsetOf s ∧ s.remainingBytes = 0 ∧ s.remainingObjects.toInt ≤ 0
  | .crc => lastByte s b ∧ s.crcHeader ≠ crcFeed s.crcBody b
  | .body => lastByte s b ∧ s.crcHeader = crcFeed s.crcBody b ∧
      (bodyParse (Memory.slice s.buf 0 (offsetOf s) ++ [b]) s.msg).2 = false

/-- The byte ends the candidate ready (R140, R149). -/
def readyCondition (s : State) (b : Byte) : Prop :=
  lastByte s b ∧ s.crcHeader = crcFeed s.crcBody b ∧
    (bodyParse (Memory.slice s.buf 0 (offsetOf s) ++ [b]) s.msg).2 = true

/-- The registers as the operation has them when it raises a reject (R142 to R149); `len` is overwritten by the
reject itself. -/
def raisedState (s : State) (b : Byte) : RejectCause → State
  | .hdr0 | .hdr1 | .surplus => s
  | .count => { s with remainingObjects := BitVec.ofInt 9 ((b.toNat : Int) - 0x90) }
  | .tag => { s with remainingObjects := s.remainingObjects - 1 }
  | .crc => { s with
      remainingObjects := 0
      remainingBytes := 0
      crcBody := crcFeed s.crcBody b
      buf := Memory.write s.buf (offsetOf s) b }
  | .body => { s with
      remainingObjects := 0
      remainingBytes := 0
      crcBody := crcFeed s.crcBody b
      buf := Memory.write s.buf (offsetOf s) b
      msg := (bodyParse (Memory.slice s.buf 0 (offsetOf s) ++ [b]) s.msg).1 }

/-- Only the rejects of a complete candidate come after the store (R148, R149). -/
theorem raisedState_buf (s : State) (b : Byte) (cause : RejectCause) :
    (cause = .crc ∨ cause = .body → (raisedState s b cause).buf = Memory.write s.buf (offsetOf s) b) ∧
    (cause ≠ .crc → cause ≠ .body → (raisedState s b cause).buf = s.buf) := by
  cases cause <;> simp [raisedState]

/-! ## The offset (R141) -/

theorem offsetOf_of_lt {s : State} (h : s.len.toNat < 247) : offsetOf s = s.len.toNat := if_neg (Nat.not_le.2 h)

/-- From offset 1 on the over-size guard has not acted. -/
theorem len_eq_of_offsetOf_pos {s : State} (h : 1 ≤ offsetOf s) : s.len.toNat = offsetOf s ∧ s.len.toNat < 247 := by
  have hlt : s.len.toNat < 247 := by
    by_contra hover
    rw [offsetOf, if_pos (Nat.not_lt.1 hover)] at h
    omega
  exact ⟨(offsetOf_of_lt hlt).symm, hlt⟩

theorem len_eq_of_offsetOf_eq {s : State} {n : BitVec 8} (hn : n ≠ 0) (h : offsetOf s = n.toNat) : s.len = n := by
  obtain ⟨hlen, -⟩ := len_eq_of_offsetOf_pos (h ▸ Nat.pos_of_ne_zero (BitVec.toNat_ne.1 hn))
  exact BitVec.eq_of_toNat_eq (hlen.trans h)

/-- At offset 0, whether `len` is 0 or over-size, arm HDR0 answers (R141, R142). -/
theorem exec_syncPut_of_offsetOf_zero {s : State} (b : Byte) (h : offsetOf s = 0) :
    exec (.syncPut 0x92) s = .next (growing { s with buf := Memory.write s.buf 0 0x92, len := 1 }) ∧
      (b ≠ 0x92 → exec (.syncPut b) s = .next (rejected s .hdr0)) := by
  by_cases hover : 247 ≤ s.len.toNat
  · rw [overSizeByteStartsANewCandidate s 0x92 hover, overSizeByteStartsANewCandidate s b hover]
    exact (headerBytesAreStoredOrRejected { s with len := 0 } b).1 rfl
  · rw [offsetOf_of_lt (Nat.not_le.1 hover)] at h
    exact (headerBytesAreStoredOrRejected s b).1 (BitVec.eq_of_toNat_eq h)

/-! ## The last byte of a candidate (R147 to R149) -/

theorem afterBodyByte_of_not_zero {g : State} (h : ¬ (g.remainingObjects = 0 ∧ g.remainingBytes = 0)) :
    afterBodyByte g = growing g := if_neg h

/-- The count byte leaves no object to come iff it is `0x90` (R145). -/
theorem ofInt_count_eq_zero_iff (b : Byte) : BitVec.ofInt 9 ((b.toNat : Int) - 0x90) = 0 ↔ b = 0x90 := by
  rw [← BitVec.toInt_inj, ← countOf_eq, toInt_ofInt_countOf, countOf_eq, ← BitVec.toNat_inj]
  change (b.toNat : Int) - 144 = 0 ↔ b.toNat = 144
  omega

theorem payLen_lt (t : Tag) : payLen t < 16 := by
  cases t with
  | string l => exact l.isLt
  | _ => decide

/-- The counter of payload bytes holds every payload length (R23, R80). -/
theorem ofNat_payLen_eq_zero_iff (t : Tag) : BitVec.ofNat 4 (payLen t) = 0 ↔ payLen t = 0 := by
  rw [← BitVec.toNat_inj, BitVec.toNat_ofNat, Nat.mod_eq_of_lt (payLen_lt t)]
  rfl

/-- The last byte is stored with both counters zero, and the candidate is complete (R147). -/
theorem exec_syncPut_of_lastByte {s : State} {b : Byte} (h : lastByte s b) :
    exec (.syncPut b) s = .next (completed (grown s b 0 0)) := by
  rcases h with ⟨hoff, rfl⟩ | ⟨hoff, hbytes, hobjects⟩ | ⟨hoff, hbytes, hobjects, t, htag, hpay⟩
  · obtain ⟨-, -, hstore⟩ := countByteSetsTheCounters s 0x90 (len_eq_of_offsetOf_eq (by decide) hoff)
    exact hstore (by decide)
  · obtain ⟨hlen, hlt⟩ := len_eq_of_offsetOf_pos (s := s) (by omega)
    obtain ⟨hpayload, -⟩ := bodyByteByBranch s b (by omega) hlt
    have hstep := hpayload (by rw [hbytes]; decide)
    rwa [hbytes, hobjects] at hstep
  · obtain ⟨hlen, hlt⟩ := len_eq_of_offsetOf_pos (s := s) (by omega)
    obtain ⟨-, htagged, -⟩ := bodyByteByBranch s b (by omega) hlt
    have hstep := (htagged hbytes (by rw [hobjects]; decide)).1 t htag
    rwa [hobjects, hpay] at hstep

theorem len_eq_of_lastByte {s : State} {b : Byte} (h : lastByte s b) :
    s.len.toNat = offsetOf s ∧ s.len.toNat < 247 := by
  refine len_eq_of_offsetOf_pos ?_
  rcases h with ⟨hoff, -⟩ | ⟨hoff, -⟩ | ⟨hoff, -⟩ <;> omega

/-- The complete candidate is the stored bytes and the one just given. -/
theorem slice_grown {s : State} (b : Byte) (h : s.len.toNat < 247) :
    Memory.slice (grown s b 0 0).buf 0 (grown s b 0 0).len.toNat = Memory.slice s.buf 0 (offsetOf s) ++ [b] := by
  have hlen : (grown s b 0 0).len.toNat = s.len.toNat + 1 := stored_len b h
  have hlast := Memory.slice_write_last s.buf 0 s.len.toNat b
  rw [Nat.zero_add] at hlast
  rw [hlen, offsetOf_of_lt h, ← hlast]
  rfl

theorem exec_syncPut_of_crc {s : State} {b : Byte} (h : rejectCondition s b .crc) :
    exec (.syncPut b) s = .next (rejected (raisedState s b .crc) .crc) := by
  obtain ⟨hlast, hcrc⟩ := h
  obtain ⟨hlen, -⟩ := len_eq_of_lastByte hlast
  have hdiffer : (grown s b 0 0).crcHeader ≠ (grown s b 0 0).crcBody := hcrc
  rw [exec_syncPut_of_lastByte hlast, completed, if_pos hdiffer, raisedState, ← hlen]
  rfl

/-- With the CRCs equal the body parser decides (R149). -/
theorem exec_syncPut_of_crc_eq {s : State} {b : Byte} (hlast : lastByte s b)
    (hcrc : s.crcHeader = crcFeed s.crcBody b) :
    exec (.syncPut b) s = .next (parsedEnd (grown s b 0 0)
      (bodyParse (Memory.slice s.buf 0 (offsetOf s) ++ [b]) s.msg)) := by
  obtain ⟨-, hlt⟩ := len_eq_of_lastByte hlast
  have hmatch : (grown s b 0 0).crcMatches = true := beq_iff_eq.2 hcrc
  rw [exec_syncPut_of_lastByte hlast, completed_eq, if_pos hmatch, slice_grown b hlt]
  rfl

theorem exec_syncPut_of_body {s : State} {b : Byte} (h : rejectCondition s b .body) :
    exec (.syncPut b) s = .next (rejected (raisedState s b .body) .body) := by
  obtain ⟨hlast, hcrc, hparse⟩ := h
  obtain ⟨hlen, -⟩ := len_eq_of_lastByte hlast
  rw [exec_syncPut_of_crc_eq hlast hcrc, ← Prod.mk.eta (p := bodyParse _ _), hparse, raisedState, ← hlen]
  rfl

theorem exec_syncPut_of_ready {s : State} {b : Byte} (h : readyCondition s b) :
    ∃ g : State, exec (.syncPut b) s = .next g.endReady := by
  obtain ⟨hlast, hcrc, hparse⟩ := h
  rw [exec_syncPut_of_crc_eq hlast hcrc, ← Prod.mk.eta (p := bodyParse _ _), hparse]
  exact ⟨_, rfl⟩

/-! ## Each condition settles the step, and no byte escapes them -/

/-- A byte that meets the condition of a cause is rejected with it, from the registers of `raisedState`. -/
theorem exec_syncPut_of_rejectCondition {s : State} {b : Byte} {cause : RejectCause}
    (h : rejectCondition s b cause) :
    exec (.syncPut b) s = .next (rejected (raisedState s b cause) cause) := by
  cases cause with
  | hdr0 =>
    obtain ⟨hoff, hb⟩ := h
    exact (exec_syncPut_of_offsetOf_zero b hoff).2 hb
  | hdr1 =>
    obtain ⟨hoff, hb⟩ := h
    exact ((headerBytesAreStoredOrRejected s b).2 (len_eq_of_offsetOf_eq (by decide) hoff)).2 hb
  | count =>
    obtain ⟨hoff, hb⟩ := h
    obtain ⟨-, hreject, -⟩ := countByteSetsTheCounters s b (len_eq_of_offsetOf_eq (by decide) hoff)
    exact hreject hb
  | tag =>
    obtain ⟨hoff, hbytes, hobjects, htag⟩ := h
    obtain ⟨hlen, hlt⟩ := len_eq_of_offsetOf_pos (s := s) (by omega)
    obtain ⟨-, htagged, -⟩ := bodyByteByBranch s b (by omega) hlt
    exact (htagged hbytes hobjects).2 htag
  | surplus =>
    obtain ⟨hoff, hbytes, hobjects⟩ := h
    obtain ⟨hlen, hlt⟩ := len_eq_of_offsetOf_pos (s := s) (by omega)
    obtain ⟨-, -, hsurplus⟩ := bodyByteByBranch s b (by omega) hlt
    exact hsurplus hbytes hobjects
  | crc => exact exec_syncPut_of_crc h
  | body => exact exec_syncPut_of_body h

/-- A byte of arm BODY (R146) that does not complete the candidate. -/
theorem rejectCondition_or_growing_of_body {s : State} {b : Byte} (hoff : 7 ≤ offsetOf s) (hlast : ¬ lastByte s b) :
    (∃ cause, rejectCondition s b cause) ∨ ∃ g, exec (.syncPut b) s = .next (growing g) := by
  obtain ⟨hlen, hlt⟩ := len_eq_of_offsetOf_pos (s := s) (by omega)
  obtain ⟨hpayload, htagged, -⟩ := bodyByteByBranch s b (by omega) hlt
  by_cases hbytes : s.remainingBytes = 0
  · by_cases hobjects : 0 < s.remainingObjects.toInt
    · cases htag : decodeTag b with
      | none => exact .inl ⟨.tag, hoff, hbytes, hobjects, htag⟩
      | some t =>
        refine .inr ⟨_, ((htagged hbytes hobjects).1 t htag).trans (congrArg _ (afterBodyByte_of_not_zero ?_))⟩
        rintro ⟨hone, hpay⟩
        exact hlast (.inr (.inr ⟨hoff, hbytes, eq_of_sub_eq_zero hone, t, htag,
          (ofNat_payLen_eq_zero_iff t).1 hpay⟩))
    · exact .inl ⟨.surplus, hoff, hbytes, Int.not_lt.1 hobjects⟩
  · refine .inr ⟨_, (hpayload hbytes).trans (congrArg _ (afterBodyByte_of_not_zero ?_))⟩
    rintro ⟨hobjects, hone⟩
    exact hlast (.inr (.inl ⟨hoff, eq_of_sub_eq_zero hone, hobjects⟩))

/-- A byte that does not complete the candidate is rejected by its arm, or the candidate grows (R142 to R147). -/
theorem rejectCondition_or_growing {s : State} {b : Byte} (hlast : ¬ lastByte s b) :
    (∃ cause, rejectCondition s b cause) ∨ ∃ g, exec (.syncPut b) s = .next (growing g) := by
  obtain hoff | hoff | ⟨hlo, hhi⟩ | hoff | hoff : offsetOf s = 0 ∨ offsetOf s = 1 ∨
      (2 ≤ offsetOf s ∧ offsetOf s ≤ 5) ∨ offsetOf s = 6 ∨ 7 ≤ offsetOf s := by omega
  · by_cases hb : b = 0x92
    · exact .inr ⟨_, hb ▸ (exec_syncPut_of_offsetOf_zero b hoff).1⟩
    · exact .inl ⟨.hdr0, hoff, hb⟩
  · obtain ⟨hstore, -⟩ := (headerBytesAreStoredOrRejected s b).2 (len_eq_of_offsetOf_eq (by decide) hoff)
    by_cases hb : b = 0xCE
    · exact .inr ⟨_, hb ▸ hstore⟩
    · exact .inl ⟨.hdr1, hoff, hb⟩
  · obtain ⟨hlen, -⟩ := len_eq_of_offsetOf_pos (s := s) (by omega)
    exact .inr ⟨_, crcFieldByteIsShiftedIn s b (by omega) (by omega)⟩
  · obtain ⟨-, -, hstore⟩ := countByteSetsTheCounters s b (len_eq_of_offsetOf_eq (by decide) hoff)
    by_cases hb : 0xA0 ≤ b.toNat
    · exact .inl ⟨.count, hoff, hb⟩
    · refine .inr ⟨_, (hstore (Nat.not_le.1 hb)).trans (congrArg _ (afterBodyByte_of_not_zero ?_))⟩
      rintro ⟨hcount, -⟩
      exact hlast (.inl ⟨hoff, (ofInt_count_eq_zero_iff b).1 hcount⟩)
  · exact rejectCondition_or_growing_of_body hoff hlast

/-- The three ways a byte can end. -/
theorem syncPut_cases (s : State) (b : Byte) :
    (∃ cause, rejectCondition s b cause) ∨ readyCondition s b ∨
      ∃ g, exec (.syncPut b) s = .next (growing g) := by
  by_cases hlast : lastByte s b
  · by_cases hcrc : s.crcHeader = crcFeed s.crcBody b
    · cases hparse : (bodyParse (Memory.slice s.buf 0 (offsetOf s) ++ [b]) s.msg).2 with
      | true => exact .inr (.inl ⟨hlast, hcrc, hparse⟩)
      | false => exact .inl ⟨.body, hlast, hcrc, hparse⟩
    · exact .inl ⟨.crc, hlast, hcrc⟩
  · exact (rejectCondition_or_growing hlast).imp_right .inr

/-- A cause label tells which condition held, and with it the whole next state. -/
theorem rejectCondition_and_eq_of_ghostReject {s t : State} {b : Byte} {cause : RejectCause}
    (hstep : exec (.syncPut b) s = .next t) (h : t.ghostReject = some cause) :
    rejectCondition s b cause ∧ t = rejected (raisedState s b cause) cause := by
  rcases syncPut_cases s b with ⟨cause', hcond⟩ | hready | ⟨g, hgrow⟩
  · cases hstep.symm.trans (exec_syncPut_of_rejectCondition hcond)
    cases h
    exact ⟨hcond, rfl⟩
  · obtain ⟨g, hg⟩ := exec_syncPut_of_ready hready
    cases hstep.symm.trans hg
    cases h
  · cases hstep.symm.trans hgrow
    cases h

theorem ghostReject_eq_some_iff {s t : State} {b : Byte} (hstep : exec (.syncPut b) s = .next t)
    (cause : RejectCause) : t.ghostReject = some cause ↔ rejectCondition s b cause := by
  refine ⟨fun h => (rejectCondition_and_eq_of_ghostReject hstep h).1, fun h => ?_⟩
  cases hstep.symm.trans (exec_syncPut_of_rejectCondition h)
  rfl

theorem report_flag_eq_true_iff {s t : State} {b : Byte} (hstep : exec (.syncPut b) s = .next t) :
    t.report.flag = true ↔ readyCondition s b := by
  constructor
  · intro h
    rcases syncPut_cases s b with ⟨cause, hcond⟩ | hready | ⟨g, hgrow⟩
    · cases hstep.symm.trans (exec_syncPut_of_rejectCondition hcond)
      cases h
    · exact hready
    · cases hstep.symm.trans hgrow
      cases h
  · intro h
    obtain ⟨g, hg⟩ := exec_syncPut_of_ready h
    cases hstep.symm.trans hg
    rfl

end Machine

open Machine

/-- Settles O33: each condition settles its step, and a byte that meets none leaves no label and no ready. -/
theorem rejectCausesAndReadyByCondition : Obligations.RejectCausesAndReadyByCondition := by
  unfold Obligations.RejectCausesAndReadyByCondition
  refine ⟨fun s b t hstep => ?_, by decide⟩
  have hcause := ghostReject_eq_some_iff hstep
  refine ⟨hcause .hdr0, hcause .hdr1, hcause .count, hcause .tag, hcause .surplus, hcause .crc, hcause .body,
    report_flag_eq_true_iff hstep, fun cause h => ?_⟩
  obtain ⟨-, rfl⟩ := rejectCondition_and_eq_of_ghostReject hstep h
  exact ⟨rfl, raisedState_buf s b cause⟩

/-- Settles O34: the label fixes the whole next state, which stands at offset 0. -/
theorem rejectLeavesTheSynchronizerIdle : Obligations.RejectLeavesTheSynchronizerIdle := by
  unfold Obligations.RejectLeavesTheSynchronizerIdle
  intro s b t cause hstep h
  obtain ⟨-, rfl⟩ := rejectCondition_and_eq_of_ghostReject hstep h
  have hnext := fun c => exec_syncPut_of_offsetOf_zero (s := rejected (raisedState s b cause) cause) c rfl
  refine ⟨?_, ?_, ?_, ?_, ?_, (hnext 0).1, fun c => (hnext c).2⟩
  · rintro (rfl | rfl | rfl) <;> rfl
  all_goals
    rintro rfl
    rfl

end Sys2Proof
end

section
/-! PROOF. The `Reset` event (70_reset_and_hazards.md R270): what its step is, and the values it fixes. -/

namespace Sys2Proof

namespace Machine

/-- A `Reset` the host causes is taken from the port and performed, whatever the block was doing (R12, R17). -/
theorem step_of_reset {s : State} {junk : ResetJunk} {rest : List HostEvent}
    (hissue : s.issue = .reset junk :: rest) : step s = performReset junk { s with issue := rest } := by
  simp only [step, hissue]

/-- The registers that R270 gives a value have it after every `Reset`, whatever the junk. -/
theorem performReset_fixed_values (junk : ResetJunk) (s : State) :
    ∃ t, performReset junk s = .next t ∧ t.len = 0 ∧ t.msgValid = false ∧ t.crcAcc = 0 ∧ t.result = none :=
  ⟨_, rfl, rfl, rfl, rfl, rfl⟩

end Machine

/-- Settles O7: the step of a `Reset` event is `performReset`; the start state holds the values by its definition. -/
theorem resetLeavesItsValues : Obligations.ResetLeavesItsValues := by
  unfold Obligations.ResetLeavesItsValues
  refine ⟨fun s junk rest hissue => ?_, rfl, rfl, rfl, rfl⟩
  rw [Machine.step_of_reset hissue]
  exact Machine.performReset_fixed_values junk _

end Sys2Proof
end

section
/-! PROOF. Decoding and encoding are inverse (30_encoding.md R70 to R80): each arm of the decoder spells back the
word it read, and each word and wire byte of the encoder decodes. -/

namespace Sys2Proof

/-! ## What an arm of the decoder accepts is an encoding -/

section
variable {w : OpWord} {i : Instr} (o : BitVec 8) (ho : (OpWord.opcode w).toNat = o.toNat)
include ho

theorem encode_of_decodeArg {n : Nat} {op : BitVec n → Instr} (hn : n ≤ 64)
    (henc : ∀ v, encode (op v) = .op (opWordArg o v) ∧ (op v).wellFormed = true)
    (h : decodeArg n w op = .ok i) : encode i = .op w ∧ i.wellFormed = true := by
  obtain ⟨⟨hj, hi, hhigh⟩, rfl⟩ := decodeArg_eq_ok_iff.1 h
  obtain ⟨hcode, hwf⟩ := henc ((OpWord.arg w).setWidth n)
  refine ⟨hcode.trans (congrArg Code.op (Eq.symm ?_)), hwf⟩
  exact (eq_opWord_iff w o 0 0 _).2
    ⟨BitVec.eq_of_toNat_eq ho, hj, hi, (eq_setWidth_iff hn _ _).2 ⟨hhigh, rfl⟩⟩

theorem encode_of_decodeArg_of_noOperand {x : Instr} (henc : encode x = .op (opWord o 0 0 0))
    (hwf : x.wellFormed = true) (h : decodeArg 0 w (fun _ => x) = .ok i) :
    encode i = .op w ∧ i.wellFormed = true :=
  encode_of_decodeArg o ho (by decide) (fun v => ⟨by rw [henc, opWordArg, BitVec.eq_nil v]; rfl, hwf⟩) h

theorem encode_of_decodeSlot {op : Nibble → Instr}
    (henc : ∀ k, encode (op k) = .op (opWord o 0 k 0) ∧ (op k).wellFormed = slotIndexOk k)
    (h : decodeSlot w op = .ok i) : encode i = .op w ∧ i.wellFormed = true := by
  obtain ⟨⟨⟨hj, harg⟩, hslot⟩, rfl⟩ := decodeSlot_eq_ok_iff.1 h
  obtain ⟨hcode, hwf⟩ := henc (OpWord.i w)
  refine ⟨hcode.trans (congrArg Code.op (Eq.symm ?_)), hwf.trans (bne_iff_ne.2 hslot)⟩
  exact (eq_opWord_iff w o 0 _ 0).2 ⟨BitVec.eq_of_toNat_eq ho, hj, rfl, harg⟩

theorem encode_of_decodeSlotByte {op : Nibble → Nibble → Instr}
    (henc : ∀ k l, encode (op k l) = .op (opWord o l k 0) ∧
      (op k l).wellFormed = (slotIndexOk k && byteIndexOk l))
    (h : decodeSlotByte w op = .ok i) : encode i = .op w ∧ i.wellFormed = true := by
  obtain ⟨⟨harg, hslot, hbyte⟩, rfl⟩ := decodeSlotByte_eq_ok_iff.1 h
  obtain ⟨hcode, hwf⟩ := henc (OpWord.i w) (OpWord.j w)
  refine ⟨hcode.trans (congrArg Code.op (Eq.symm ?_)), ?_⟩
  · exact (eq_opWord_iff w o _ _ 0).2 ⟨BitVec.eq_of_toNat_eq ho, rfl, rfl, harg⟩
  · rw [hwf, Bool.and_eq_true]
    exact ⟨bne_iff_ne.2 hslot, bne_iff_ne.2 hbyte⟩

end

theorem encode_of_decodeOp {w : OpWord} {i : Instr} (h : decodeOp w = .ok i) :
    encode i = .op w ∧ i.wellFormed = true := by
  unfold decodeOp at h
  split at h
  · next ho => exact encode_of_decodeArg_of_noOperand 0x00 ho rfl rfl h
  · next ho => exact encode_of_decodeArg 0x10 ho (by decide) (fun _ => ⟨rfl, rfl⟩) h
  · next ho => exact encode_of_decodeArg 0x11 ho (by decide) (fun _ => ⟨rfl, rfl⟩) h
  · next ho => exact encode_of_decodeArg_of_noOperand 0x12 ho rfl rfl h
  · next ho => exact encode_of_decodeArg 0x20 ho (by decide) (fun _ => ⟨rfl, rfl⟩) h
  · next ho => exact encode_of_decodeArg_of_noOperand 0x30 ho rfl rfl h
  · next ho => exact encode_of_decodeSlot 0x31 ho (fun _ => ⟨rfl, rfl⟩) h
  · next ho => exact encode_of_decodeSlot 0x32 ho (fun _ => ⟨rfl, rfl⟩) h
  · next ho => exact encode_of_decodeSlot 0x33 ho (fun _ => ⟨rfl, rfl⟩) h
  · next ho => exact encode_of_decodeSlotByte 0x34 ho (fun _ _ => ⟨rfl, rfl⟩) h
  · next ho => exact encode_of_decodeArg 0x40 ho (by decide) (fun _ => ⟨rfl, rfl⟩) h
  · next ho => exact encode_of_decodeArg 0x41 ho (by decide) (fun _ => ⟨rfl, rfl⟩) h
  · next ho => exact encode_of_decodeArg 0x42 ho (by decide) (fun _ => ⟨rfl, rfl⟩) h
  · next ho => exact encode_of_decodeArg 0x43 ho (by decide) (fun _ => ⟨rfl, rfl⟩) h
  · next ho => exact encode_of_decodeArg 0x48 ho (by decide) (fun _ => ⟨rfl, rfl⟩) h
  · next ho => exact encode_of_decodeArg 0x49 ho (by decide) (fun _ => ⟨rfl, rfl⟩) h
  · next ho => exact encode_of_decodeArg 0x4A ho (by decide) (fun _ => ⟨rfl, rfl⟩) h
  · next ho => exact encode_of_decodeArg 0x4B ho (by decide) (fun _ => ⟨rfl, rfl⟩) h
  · cases h

/-! ## The wire bytes -/

/-- The count bytes are the bytes of high nibble 9 (R79). -/
theorem countByte_of_highNibble : ∀ b : Byte, b.extractLsb' 4 4 = 0x9 → countByte (b.setWidth 4) = b := by
  decide

theorem countByte_nibbles : ∀ n : Nibble,
    (countByte n).extractLsb' 4 4 = 0x9 ∧ (countByte n).setWidth 4 = n := by decide

@[simp] theorem decodeWire_countByte (n : Nibble) : decodeWire .count (countByte n) = .ok (.wireCount n) := by
  obtain ⟨hhigh, hlow⟩ := countByte_nibbles n
  rw [decodeWire, if_pos hhigh, hlow]

/-- A tag's byte, where a tag is expected, is the tag's row (R80). -/
@[simp] theorem decodeWire_tagByte (t : Tag) : decodeWire .tag t.byte = .ok t.instr := by
  rw [decodeWire, decodeTag_byte]

theorem encode_tagInstr (t : Tag) : encode t.instr = .wire .tag t.byte ∧ t.instr.wellFormed = true := by
  cases t <;> exact ⟨rfl, rfl⟩

theorem encode_of_decodeWire {role : WireRole} {b : Byte} {i : Instr} (h : decodeWire role b = .ok i) :
    encode i = .wire role b ∧ i.wellFormed = true := by
  unfold decodeWire at h
  split at h
  case h_1 | h_2 =>
    split at h
    · next hb => cases h; exact ⟨by rw [hb]; rfl, rfl⟩
    · cases h
  case h_3 => cases h; exact ⟨rfl, rfl⟩
  case h_4 =>
    split at h
    · next hb => cases h; exact ⟨congrArg (Code.wire .count) (countByte_of_highNibble b hb), rfl⟩
    · cases h
  case h_5 =>
    split at h
    · next t ht =>
      cases h
      rw [← byte_of_decodeTag ht]
      exact encode_tagInstr t
    · cases h

/-! ## The one word of `SYNC.PUT` -/

/-- The one word that spells `SYNC.PUT b` (R140). -/
theorem decodeOp_eq_syncPut_iff (w : OpWord) (b : Byte) : decodeOp w = .ok (.syncPut b) ↔ w = opWordArg 0x20 b :=
  decodeOp_eq_ok_iff_eq_opWordArg (by decide) 0x20 (fun _ _ => Instr.syncPut.inj) (fun _ => rfl)
    (fun _ h => by simp [decodeOp, h]) w b

/-- Settles O2: the one word of each operation decodes, and so does the byte of each wire row in its role. -/
theorem decodeOfEncodeIsTheInstruction : Obligations.DecodeOfEncodeIsTheInstruction := by
  unfold Obligations.DecodeOfEncodeIsTheInstruction
  intro i hwf
  cases i with
  | nop => exact (decodeOp_eq_nop_iff _).2 rfl
  | crcSeed seed => exact (decodeOp_eq_crcSeed_iff _ seed).2 rfl
  | crcByte b => exact (decodeOp_eq_crcByte_iff _ b).2 rfl
  | crcRead => exact (decodeOp_eq_crcRead_iff _).2 rfl
  | syncPut b => exact (decodeOp_eq_syncPut_iff _ b).2 rfl
  | msgLen => exact (decodeOp_eq_msgLen_iff _).2 rfl
  | msgKind k => exact (decodeOp_eq_msgKind_iff _ (bne_iff_ne.1 hwf)).2 rfl
  | msgVal k => exact (decodeOp_eq_msgVal_iff _ (bne_iff_ne.1 hwf)).2 rfl
  | msgSlen k => exact (decodeOp_eq_msgSlen_iff _ (bne_iff_ne.1 hwf)).2 rfl
  | msgStrb k l =>
    obtain ⟨hslot, hbyte⟩ := (Bool.and_eq_true _ _).mp hwf
    exact (decodeOp_eq_msgStrb_iff _ (bne_iff_ne.1 hslot) (bne_iff_ne.1 hbyte)).2 rfl
  | bePack8 v => exact (decodeOp_eq_bePack8_iff _ v).2 rfl
  | bePack16 v => exact (decodeOp_eq_bePack16_iff _ v).2 rfl
  | bePack32 v => exact (decodeOp_eq_bePack32_iff _ v).2 rfl
  | bePack64 v => exact (decodeOp_eq_bePack64_iff _ v).2 rfl
  | beUnpack8 v => exact (decodeOp_eq_beUnpack8_iff _ v).2 rfl
  | beUnpack16 v => exact (decodeOp_eq_beUnpack16_iff _ v).2 rfl
  | beUnpack32 v => exact (decodeOp_eq_beUnpack32_iff _ v).2 rfl
  | beUnpack64 v => exact (decodeOp_eq_beUnpack64_iff _ v).2 rfl
  | wireHdr0 | wireHdr1 | wireCrc => rfl
  | wireCount n => exact decodeWire_countByte n
  | tagBoolFalse => exact decodeWire_tagByte .boolFalse
  | tagBoolTrue => exact decodeWire_tagByte .boolTrue
  | tagFloat => exact decodeWire_tagByte .float
  | tagDouble => exact decodeWire_tagByte .double
  | tagUint8 => exact decodeWire_tagByte .uint8
  | tagUint16 => exact decodeWire_tagByte .uint16
  | tagUint32 => exact decodeWire_tagByte .uint32
  | tagUint64 => exact decodeWire_tagByte .uint64
  | tagInt8 => exact decodeWire_tagByte .int8
  | tagInt16 => exact decodeWire_tagByte .int16
  | tagInt32 => exact decodeWire_tagByte .int32
  | tagInt64 => exact decodeWire_tagByte .int64
  | tagString l => exact decodeWire_tagByte (.string l)

/-- Settles O3: by the arms of the decoder, for a word and for a wire byte. -/
theorem encodeOfDecodeIsTheCode : Obligations.EncodeOfDecodeIsTheCode := by
  unfold Obligations.EncodeOfDecodeIsTheCode
  intro c i h
  cases c with
  | op w => exact encode_of_decodeOp h
  | wire role b => exact encode_of_decodeWire h

/-- Settles O1: the operations' words by the one word of each, the wire bytes by the tables of their roles. -/
theorem writtenWordsDecode : Obligations.WrittenWordsDecode := by
  unfold Obligations.WrittenWordsDecode
  exact ⟨(decodeOp_eq_nop_iff _).2 (by decide), (decodeOp_eq_crcByte_iff _ _).2 (by decide),
    (decodeOp_eq_crcRead_iff _).2 (by decide), (decodeOp_eq_syncPut_iff _ _).2 (by decide),
    (decodeOp_eq_msgKind_iff _ (by decide)).2 (by decide),
    (decodeOp_eq_msgStrb_iff _ (by decide) (by decide)).2 (by decide),
    (decodeOp_eq_bePack8_iff _ _).2 (by decide), (decodeOp_eq_bePack64_iff _ _).2 (by decide),
    (decodeOp_eq_beUnpack64_iff _ _).2 (by decide), rfl, decodeWire_tagByte .uint32, decodeWire_countByte 15,
    decodeWire_tagByte (.string 10)⟩

/-! ## What a step and a wire row perform -/

open Machine

/-- Settles O6: the word the host presents is taken from the port, and what it spells is performed. -/
theorem stepPerformsThePresentedOperation : Obligations.StepPerformsThePresentedOperation := by
  unfold Obligations.StepPerformsThePresentedOperation
  intro s w rest i hissue hdecode
  simp only [step, hissue, runWord, hdecode]

namespace Machine

theorem exec_wire_eq_exec_syncPut {i : Instr} {role : WireRole} {b : Byte} (h : encode i = .wire role b) (s : State) :
    exec i s = exec (.syncPut b) s := by
  rw [exec_wire h, exec_syncPut]

end Machine

/-- Settles O9: a wire row's encoding is its byte, and every wire row does the synchronizer's step on its byte. -/
theorem wireRowDoesWhatSyncPutDoes : Obligations.WireRowDoesWhatSyncPutDoes := by
  unfold Obligations.WireRowDoesWhatSyncPutDoes
  intro s role b i h
  exact exec_wire_eq_exec_syncPut (encode_of_decodeWire h).1 s

end Sys2Proof
end

section
/-! PROOF. The arithmetic of the CRC engine (40_crc.md R101 to R104, R110, R111): the bit step is linear over XOR
and loses nothing, and so is the byte step; on a byte alone the eight bit steps are the table's entry, on the bits
above it they are a shift. -/

namespace Sys2Proof

namespace Machine

/-! ## The bit step -/

theorem crcBit_of_even {r : Crc} (h : r.getLsbD 0 = false) : crcBit r = r >>> 1 := by
  rw [crcBit, h]
  rfl

theorem crcBit_of_odd {r : Crc} (h : r.getLsbD 0 = true) : crcBit r = (r >>> 1) ^^^ Config.crcPoly := if_pos h

theorem crcBit_xor (x y : Crc) : crcBit (x ^^^ y) = crcBit x ^^^ crcBit y := by
  have hxy : (x ^^^ y).getLsbD 0 = (x.getLsbD 0 ^^ y.getLsbD 0) := BitVec.getLsbD_xor
  have hcancel : ∀ a c p : Crc, a ^^^ c = a ^^^ p ^^^ (c ^^^ p) := fun a c p => by
    rw [BitVec.xor_comm c, BitVec.xor_assoc, ← BitVec.xor_assoc p, BitVec.xor_self, BitVec.zero_xor]
  cases hx : x.getLsbD 0 <;> cases hy : y.getLsbD 0 <;> rw [hx, hy] at hxy
  · rw [crcBit_of_even hx, crcBit_of_even hy, crcBit_of_even hxy, BitVec.ushiftRight_xor_distrib]
  · rw [crcBit_of_even hx, crcBit_of_odd hy, crcBit_of_odd hxy, BitVec.ushiftRight_xor_distrib]
    ac_rfl
  · rw [crcBit_of_odd hx, crcBit_of_even hy, crcBit_of_odd hxy, BitVec.ushiftRight_xor_distrib]
    ac_rfl
  · rw [crcBit_of_odd hx, crcBit_of_odd hy, crcBit_of_even hxy, BitVec.ushiftRight_xor_distrib, ← hcancel]

theorem crcBits_xor (n : Nat) (x y : Crc) : crcBits n (x ^^^ y) = crcBits n x ^^^ crcBits n y := by
  induction n generalizing x y with
  | zero => rfl
  | succ n ih => rw [crcBits, crcBit_xor, ih, crcBits, crcBits]

/-- The polynomial's top bit says whether a 1 was shifted out, so that no bit step loses anything. -/
theorem eq_zero_of_crcBit_eq_zero {r : Crc} (h : crcBit r = 0) : r = 0 := by
  cases hr : r.getLsbD 0 with
  | false =>
    rw [crcBit_of_even hr] at h
    apply BitVec.eq_of_getLsbD_eq
    intro k hk
    cases k with
    | zero => exact hr
    | succ k =>
      have hbit := congrArg (·.getLsbD k) h
      simpa [Nat.add_comm] using hbit
  | true =>
    rw [crcBit_of_odd hr] at h
    have htop := congrArg (·.getLsbD 31) h
    simp [Config.crcPoly] at htop

theorem crcBits_eq_zero {n : Nat} {r : Crc} (h : crcBits n r = 0) : r = 0 := by
  induction n generalizing r with
  | zero => exact h
  | succ n ih => exact eq_zero_of_crcBit_eq_zero (ih h)

theorem crcBits_injective (n : Nat) : Function.Injective (crcBits n) := by
  intro x y h
  have hxor : crcBits n (x ^^^ y) = 0 := by rw [crcBits_xor, h, BitVec.xor_self]; rfl
  exact BitVec.xor_eq_zero_iff.1 (crcBits_eq_zero hxor)

/-- While the bits shifted out are zero, the bit steps only shift. -/
theorem crcBits_eq_ushiftRight {n : Nat} {r : Crc} (h : ∀ k < n, r.getLsbD k = false) : crcBits n r = r >>> n := by
  induction n generalizing r with
  | zero => simp [crcBits]
  | succ n ih =>
    have hshift : ∀ k < n, (r >>> 1).getLsbD k = false := fun k hk => by
      rw [BitVec.getLsbD_ushiftRight]
      exact h (1 + k) (by omega)
    rw [crcBits, crcBit_of_even (h 0 (by omega)), ih hshift, ← BitVec.shiftRight_add, Nat.add_comm]

/-! ## The byte step -/

theorem crcRawStep_xor (r₁ r₂ : Crc) (b₁ b₂ : Byte) :
    crcRawStep (r₁ ^^^ r₂) (b₁ ^^^ b₂) = crcRawStep r₁ b₁ ^^^ crcRawStep r₂ b₂ := by
  rw [crcRawStep, crcRawStep, crcRawStep, ← crcBits_xor, BitVec.setWidth_xor]
  congr 1
  ac_rfl

theorem crcRawStep_injective_register (b : Byte) : Function.Injective fun r : Crc => crcRawStep r b :=
  fun _ _ h => (BitVec.xor_left_inj _).1 (crcBits_injective 8 h)

theorem crcRawStep_injective_byte (r : Crc) : Function.Injective (crcRawStep r) := by
  intro b c h
  have hword : b.setWidth 32 = c.setWidth 32 := (BitVec.xor_right_inj _).1 (crcBits_injective 8 h)
  simpa using congrArg (BitVec.setWidth 8) hword

/-- A register is its low byte and the bits above it. -/
theorem xor_lowByte_eq (x : Crc) : (x.extractLsb' 0 8).setWidth 32 ^^^ x >>> 8 <<< 8 = x := by
  apply BitVec.eq_of_getLsbD_eq
  intro k hk
  by_cases hlow : k < 8
  · simp [hk, hlow]
  · simp [hk, hlow, show 8 + (k - 8) = k by omega]

/-- Each entry of the table is the step of its index from zero (R102). -/
theorem crcTable_getD : ∀ i : Byte, crcTable.getD i.toNat 0 = crcRawStep 0 i := by decide +kernel

/-- The low byte's part of the step is a table entry, the part of the bits above it is their shift (R102). -/
theorem crcBits_eight (x : Crc) : crcBits 8 x = crcTable.getD (x.extractLsb' 0 8).toNat 0 ^^^ x >>> 8 := by
  have hhigh : crcBits 8 (x >>> 8 <<< 8) = x >>> 8 := by
    rw [crcBits_eq_ushiftRight fun k hk => by simp [hk]]
    apply BitVec.eq_of_getLsbD_eq
    intro k hk
    by_cases hin : 8 + k < 32
    · simp [hin]
    · simp [hin, BitVec.getLsbD_of_ge x (8 + k) (Nat.le_of_not_lt hin)]
  conv_lhs => rw [← xor_lowByte_eq x]
  have hzero : ∀ y : Crc, 0 ^^^ y = y := fun _ => BitVec.zero_xor
  rw [crcBits_xor, hhigh, crcTable_getD, crcRawStep, hzero]

theorem crcRawStep_eq_crcTableStep (r : Crc) (b : Byte) : crcRawStep r b = crcTableStep r b := by
  have hbyte : b.setWidth 32 >>> 8 = 0 := ((eq_setWidth_iff (by decide) _ b).1 rfl).1
  rw [crcRawStep, crcBits_eight, crcTableStep, BitVec.ushiftRight_xor_distrib, hbyte]
  simp

/-! ## The checksum of a byte sequence -/

@[simp] theorem crc32b_nil (seed : Crc) : crc32b seed [] = seed := by
  rw [crc32b, List.foldl_nil, BitVec.xor_assoc, BitVec.xor_self, BitVec.xor_zero]

/-- The finished register of a first part is the seed of the second (R104). -/
theorem crc32b_append (seed : Crc) (a b : List Byte) : crc32b seed (a ++ b) = crc32b (crc32b seed a) b := by
  rw [crc32b, crc32b, crc32b, List.foldl_append, BitVec.xor_assoc, BitVec.xor_self, BitVec.xor_zero]

theorem crcFeed_eq_crc32b (c : Crc) (b : Byte) : crcFeed c b = crc32b c [b] := by
  have hxor : ∀ r : Crc, r ^^^ Config.crcXor = ~~~ r := fun r => BitVec.xor_allOnes
  rw [crcFeed, crc32b, hxor, hxor]
  rfl

theorem crc32b_concat (seed : Crc) (bs : List Byte) (b : Byte) :
    crc32b seed (bs ++ [b]) = crcFeed (crc32b seed bs) b := by
  rw [crc32b_append, crcFeed_eq_crc32b]

theorem foldl_crcFeed (c : Crc) (bs : List Byte) : bs.foldl crcFeed c = crc32b c bs := by
  induction bs generalizing c with
  | nil => rw [List.foldl_nil, crc32b_nil]
  | cons b bs ih => rw [List.foldl_cons, ih, crcFeed_eq_crc32b, ← crc32b_append, List.singleton_append]

theorem crc32b_injective_seed (bs : List Byte) : Function.Injective fun seed => crc32b seed bs := by
  induction bs with
  | nil => intro x y h; simpa using h
  | cons b bs ih =>
    intro x y h
    have hhead : crc32b x [b] = crc32b y [b] := ih (by
      dsimp only at h ⊢
      rwa [← crc32b_append, ← crc32b_append])
    have hstep := (BitVec.xor_left_inj _).1 hhead
    exact (BitVec.xor_left_inj _).1 (crcRawStep_injective_register b hstep)

/-- One byte changed changes the checksum (R206). -/
theorem crc32b_ne_of_byte_ne (seed : Crc) (a c : List Byte) {x y : Byte} (h : x ≠ y) :
    crc32b seed (a ++ x :: c) ≠ crc32b seed (a ++ y :: c) := by
  intro heq
  rw [← List.singleton_append, ← List.singleton_append (x := y), crc32b_append, crc32b_append, crc32b_append,
    crc32b_append] at heq
  have hbyte := (BitVec.xor_left_inj _).1 (crc32b_injective_seed c heq)
  exact h (crcRawStep_injective_byte _ hbyte)

end Machine

open Machine

/-- Settles O13: by the fold that `CRC32B` is. -/
theorem crcContinues : Obligations.CrcContinues := by
  unfold Obligations.CrcContinues
  exact ⟨fun seed a b => ⟨(crc32b_append seed a b).symm, crc32b_nil seed⟩,
    fun c b bs => ⟨crcFeed_eq_crc32b c b, rfl, foldl_crcFeed c bs⟩⟩

/-- Settles O14: the step is linear, so that the table's part and the shifted part add up. -/
theorem crcTableFormIsTheStep : Obligations.CrcTableFormIsTheStep := by
  unfold Obligations.CrcTableFormIsTheStep
  exact ⟨crcRawStep_eq_crcTableStep, by decide +kernel, crcTable_getD⟩

/-- Settles O15: no bit step loses anything, and an injection of a finite set into itself is a bijection. -/
theorem crcStepIsBijectiveAndLinear : Obligations.CrcStepIsBijectiveAndLinear := by
  unfold Obligations.CrcStepIsBijectiveAndLinear
  exact ⟨fun b => Finite.injective_iff_bijective.1 (crcRawStep_injective_register b), crcRawStep_xor⟩

end Sys2Proof
end

section
/-! PROOF. `be_pack_n` and `be_unpack_n` are inverse at every width (41_be_datapath.md R122). -/

namespace Sys2Proof

namespace Machine

/-- The bytes of a value are its digits in base 256, lane 0 the lowest. -/
theorem ofDigits_lanes {w : Nat} (n : Nat) (v : BitVec w) :
    Nat.ofDigits 256 ((lanes n v).map BitVec.toNat) = v.toNat % 256 ^ n := by
  induction n with
  | zero => simp [lanes, Nat.mod_one]
  | succ n ih =>
    have hdigit : (v.extractLsb' (8 * n) 8).toNat = v.toNat / 256 ^ n % 256 := by
      rw [BitVec.extractLsb'_toNat, Nat.shiftRight_eq_div_pow, Nat.pow_mul]
    rw [lanes_succ, List.map_append, Nat.ofDigits_append, ih, List.length_map, lanes_length, List.map_singleton,
      Nat.ofDigits_singleton, hdigit, Nat.mod_pow_succ]

theorem beUnpack_bePack {n : Nat} (v : BitVec (8 * n)) : beUnpack (8 * n) (bePack n v) = v := by
  apply BitVec.eq_of_toNat_eq
  rw [toNat_beUnpack _ (by rw [bePack_length]), bePack_reverse, ofDigits_lanes]
  exact Nat.mod_eq_of_lt (by simpa [Nat.pow_mul] using v.isLt)

/-- Different byte sequences of one length that fits are unpacked to different values. -/
theorem eq_of_beUnpack_eq {w : Nat} {s s' : List Byte} (hfit : 8 * s.length ≤ w) (hlen : s.length = s'.length)
    (h : beUnpack w s = beUnpack w s') : s = s' := by
  have hdigits : ∀ u : List Byte, ∀ d ∈ u.reverse.map BitVec.toNat, d < 256 := by
    intro u d hd
    obtain ⟨c, -, rfl⟩ := List.mem_map.1 hd
    exact c.isLt
  have hnum := congrArg BitVec.toNat h
  rw [toNat_beUnpack s hfit, toNat_beUnpack s' (hlen ▸ hfit)] at hnum
  have hmap := Nat.ofDigits_inj_of_len_eq (by decide) (by simpa using hlen) (hdigits s) (hdigits s') hnum
  exact List.reverse_injective (List.map_injective_iff.2 (fun _ _ => BitVec.eq_of_toNat_eq) hmap)

theorem bePack_beUnpack {n : Nat} {s : List Byte} (h : s.length = n) : bePack n (beUnpack (8 * n) s) = s :=
  eq_of_beUnpack_eq (w := 8 * n) (by rw [bePack_length]) (by rw [bePack_length, h]) (beUnpack_bePack _)

end Machine

/-- Settles O20: by the digits of a value in base 256. -/
theorem beFunctionsAreInverse : Obligations.BeFunctionsAreInverse := by
  unfold Obligations.BeFunctionsAreInverse
  exact fun n _ => ⟨Machine.beUnpack_bePack, fun _ => Machine.bePack_beUnpack⟩

end Sys2Proof
end

section
/-! PROOF. Objects (43_body_decode_msg.md R171, R172, R180, 44_frame_reference.md R200, R202): `EncodeObject` and
`DecodeObject` are inverse between the abstract Objects and the tags with a payload of their length. -/

namespace Sys2Proof

namespace Machine

/-! ## The slot of a number -/

theorem scalarOk_scalarSlot {k : Kind} {v : Port64} {n : Nat} (h : v.toNat < 2 ^ (8 * n)) :
    (scalarSlot k v).scalarOk n = true := by
  simp [Slot.scalarOk, scalarSlot, h]

/-- A slot whose fields are those of a number is the slot `DecodeObject` writes (R171). -/
theorem eq_scalarSlot {o : Slot} {n : Nat} {k : Kind} (hok : o.scalarOk n = true) (hkind : o.kind = kindCode k) :
    o = scalarSlot k o.val ∧ o.val.toNat < 2 ^ (8 * n) := by
  simp only [Slot.scalarOk, Bool.and_eq_true, decide_eq_true_eq, beq_iff_eq] at hok
  obtain ⟨⟨hval, hslen⟩, hstr⟩ := hok
  refine ⟨?_, hval⟩
  cases o
  simp_all [scalarSlot]

/-- The value of a payload fits in the payload's bytes. -/
theorem toNat_beUnpack_lt {w : Nat} (s : List Byte) (h : 8 * s.length ≤ w) :
    (beUnpack w s).toNat < 2 ^ (8 * s.length) := by
  rw [← setWidth_beUnpack s le_rfl h, BitVec.toNat_setWidth_of_le h]
  exact (beUnpack (8 * s.length) s).isLt

theorem bePack_setWidth_beUnpack {w n : Nat} {s : List Byte} (hlen : s.length = n) (h : 8 * n ≤ w) :
    bePack n ((beUnpack w s).setWidth (8 * n)) = s := by
  subst hlen
  rw [← setWidth_beUnpack s le_rfl h, BitVec.setWidth_setWidth_of_le _ h, BitVec.setWidth_eq, bePack_beUnpack rfl]

theorem beUnpack_bePack_setWidth {w n : Nat} {v : BitVec w} (h : 8 * n ≤ w) (hv : v.toNat < 2 ^ (8 * n)) :
    beUnpack w (bePack n (v.setWidth (8 * n))) = v := by
  rw [← setWidth_beUnpack _ (by rw [bePack_length]) h, beUnpack_bePack]
  apply BitVec.eq_of_toNat_eq
  rw [BitVec.toNat_setWidth_of_le h, BitVec.toNat_setWidth, Nat.mod_eq_of_lt hv]

section
variable {t : Tag} (hbool : kindOfTag t ≠ .bool) (hstring : kindOfTag t ≠ .string)
include hbool hstring

theorem legal_number {o : Slot} (hkind : o.kind = kindCode (kindOfTag t)) : o.legal = o.scalarOk (payLen t) := by
  cases t with
  | boolFalse | boolTrue => exact absurd rfl hbool
  | string l => exact absurd rfl hstring
  | _ => rw [Slot.legal, hkind]; rfl

theorem encodeObject_number {o : Slot} (hkind : o.kind = kindCode (kindOfTag t)) :
    encodeObject o = t.byte :: bePack (payLen t) (o.val.setWidth (8 * payLen t)) := by
  have hwide : o.val.setWidth 64 = o.val := BitVec.setWidth_eq o.val
  cases t with
  | boolFalse | boolTrue => exact absurd rfl hbool
  | string l => exact absurd rfl hstring
  | double | uint64 | int64 =>
    rw [encodeObject, hkind]
    exact congrArg (fun v => _ :: bePack 8 v) hwide.symm
  | _ => rw [encodeObject, hkind]; rfl

theorem decodeObject_number_legal {payload : List Byte} (hlen : payload.length = payLen t) :
    (decodeObject t payload).legal = true ∧ encodeObject (decodeObject t payload) = t.byte :: payload := by
  have hfit : 8 * payLen t ≤ 64 := Nat.mul_le_mul_left 8 (payLen_le_of_ne_string hstring)
  rw [decodeObject_number hbool hstring hlen]
  constructor
  · rw [legal_number hbool hstring rfl]
    exact scalarOk_scalarSlot (hlen ▸ toNat_beUnpack_lt payload (by rwa [hlen]))
  · rw [encodeObject_number hbool hstring rfl]
    exact congrArg _ (bePack_setWidth_beUnpack hlen hfit)

/-- A number is the decoding of its tag and its big-endian bytes (R202, R171). -/
theorem object_of_number {o : Slot} (hkind : o.kind = kindCode (kindOfTag t)) (hok : o.scalarOk (payLen t) = true) :
    ∃ t payload, payload.length = payLen t ∧ encodeObject o = t.byte :: payload ∧ decodeObject t payload = o := by
  obtain ⟨hslot, hval⟩ := eq_scalarSlot hok hkind
  have hfit : 8 * payLen t ≤ 64 := Nat.mul_le_mul_left 8 (payLen_le_of_ne_string hstring)
  refine ⟨t, _, bePack_length _ _, encodeObject_number hbool hstring hkind, ?_⟩
  rw [decodeObject_number hbool hstring (bePack_length _ _), beUnpack_bePack_setWidth hfit hval]
  exact hslot.symm

end

/-! ## The slot of a String -/

theorem stringSlot_take (l : Nibble) {octets : List Byte} (h : octets.length = l.toNat) :
    (stringSlot l octets).str.toList.take l.toNat = octets := by
  have hl := l.isLt
  rw [stringSlot_str_toList l (by omega), ← h, List.take_left]

theorem decodeObject_string_legal {l : Nibble} {payload : List Byte} (hlen : payload.length = l.toNat) :
    (stringSlot l payload).legal = true ∧
      encodeObject (stringSlot l payload) = (Tag.string l).byte :: payload := by
  have hl := l.isLt
  constructor
  · have hzero : ((stringSlot l payload).str.toList.drop l.toNat).all (· == 0) = true := by
      rw [stringSlot_str_toList l (by omega), ← hlen, List.drop_left]
      simp
    exact (Bool.and_eq_true _ _).mpr ⟨rfl, hzero⟩
  · exact congrArg _ (stringSlot_take l hlen)

/-- A String that is zero above its length is the decoding of the octets below it (R200, R172). -/
theorem object_of_string {o : Slot} (hkind : o.kind = 12) (hok : o.stringOk = true) :
    ∃ t payload, payload.length = payLen t ∧ encodeObject o = t.byte :: payload ∧ decodeObject t payload = o := by
  obtain ⟨kind, val, slen, str⟩ := o
  simp only [Slot.stringOk, Bool.and_eq_true, beq_iff_eq, List.all_eq_true] at hok
  obtain ⟨hval, hzero⟩ := hok
  obtain rfl : kind = 12 := hkind
  obtain rfl : val = 0 := hval
  have hl := slen.isLt
  have hlen : (str.toList.take slen.toNat).length = slen.toNat := by
    rw [List.length_take, Vector.length_toList]
    omega
  refine ⟨.string slen, str.toList.take slen.toNat, hlen, rfl, ?_⟩
  have hstr : (stringSlot slen (str.toList.take slen.toNat)).str = str := by
    apply Vector.toList_inj.1
    have htail : str.toList.drop slen.toNat = List.replicate (15 - slen.toNat) 0 :=
      List.eq_replicate_iff.2 ⟨by rw [List.length_drop, Vector.length_toList], hzero⟩
    rw [stringSlot_str_toList slen (by omega), hlen, ← htail, List.take_append_drop]
  exact congrArg (Slot.mk 12 0 slen) hstr

/-! ## Both ways -/

/-- What a tag and a payload of its length decode to is an abstract Object, and they are its encoding. -/
theorem decodeObject_legal {t : Tag} {payload : List Byte} (hlen : payload.length = payLen t) :
    (decodeObject t payload).legal = true ∧ encodeObject (decodeObject t payload) = t.byte :: payload := by
  cases t with
  | boolFalse | boolTrue =>
    obtain rfl := List.length_eq_zero_iff.1 hlen
    decide
  | string l => exact decodeObject_string_legal hlen
  | _ => exact decodeObject_number_legal (by decide) (by decide) hlen

theorem object_of_bool {o : Slot} (hkind : o.kind = 1) (hok : o.scalarOk 1 = true) (hval : o.val.toNat ≤ 1) :
    ∃ t payload, payload.length = payLen t ∧ encodeObject o = t.byte :: payload ∧ decodeObject t payload = o := by
  obtain ⟨hslot, -⟩ := eq_scalarSlot (k := .bool) hok hkind
  obtain hzero | hone : o.val.toNat = 0 ∨ o.val.toNat = 1 := by omega
  · rw [BitVec.eq_of_toNat_eq (y := 0) hzero] at hslot
    exact hslot ▸ ⟨.boolFalse, [], rfl, rfl, rfl⟩
  · rw [BitVec.eq_of_toNat_eq (y := 1) hone] at hslot
    exact hslot ▸ ⟨.boolTrue, [], rfl, rfl, rfl⟩

/-- Every abstract Object is the decoding of its encoding, a tag and a payload of the tag's length. -/
theorem object_of_legal {o : Slot} (h : o.legal = true) :
    ∃ t payload, payload.length = payLen t ∧ encodeObject o = t.byte :: payload ∧ decodeObject t payload = o := by
  unfold Slot.legal at h
  split at h
  · next hkind =>
    rw [Bool.and_eq_true, decide_eq_true_eq] at h
    exact object_of_bool (BitVec.eq_of_toNat_eq hkind) h.1 h.2
  · next hkind => exact object_of_number (t := .uint8) (by decide) (by decide) (BitVec.eq_of_toNat_eq hkind) h
  · next hkind => exact object_of_number (t := .uint16) (by decide) (by decide) (BitVec.eq_of_toNat_eq hkind) h
  · next hkind => exact object_of_number (t := .uint32) (by decide) (by decide) (BitVec.eq_of_toNat_eq hkind) h
  · next hkind => exact object_of_number (t := .uint64) (by decide) (by decide) (BitVec.eq_of_toNat_eq hkind) h
  · next hkind => exact object_of_number (t := .int8) (by decide) (by decide) (BitVec.eq_of_toNat_eq hkind) h
  · next hkind => exact object_of_number (t := .int16) (by decide) (by decide) (BitVec.eq_of_toNat_eq hkind) h
  · next hkind => exact object_of_number (t := .int32) (by decide) (by decide) (BitVec.eq_of_toNat_eq hkind) h
  · next hkind => exact object_of_number (t := .int64) (by decide) (by decide) (BitVec.eq_of_toNat_eq hkind) h
  · next hkind => exact object_of_number (t := .float) (by decide) (by decide) (BitVec.eq_of_toNat_eq hkind) h
  · next hkind => exact object_of_number (t := .double) (by decide) (by decide) (BitVec.eq_of_toNat_eq hkind) h
  · next hkind => exact object_of_string (BitVec.eq_of_toNat_eq hkind) h
  · cases h

end Machine

open Machine

/-- Settles O25: above the payload the storage holds zeros alone, so that none comes before the payload's end. -/
theorem logicalLengthStopsAtTheFirstZero : Obligations.LogicalLengthStopsAtTheFirstZero := by
  unfold Obligations.LogicalLengthStopsAtTheFirstZero
  intro l payload hlen
  have hl := l.isLt
  have hfirst : (decodeObject (.string l) payload).logicalLen = payload.findIdx (· == 0) := by
    have hpad : (List.replicate (15 - payload.length) (0 : Byte)).findIdx (· == 0) = 0 := by
      cases 15 - payload.length <;> simp [List.replicate_succ, List.findIdx_cons]
    change (stringSlot l payload).str.toList.findIdx (· == 0) = _
    rw [stringSlot_str_toList l (by omega), List.findIdx_append, hpad]
    have hle := List.findIdx_le_length (p := (· == 0)) (xs := payload)
    split <;> omega
  refine ⟨hfirst, ?_⟩
  rw [hfirst]
  exact List.findIdx_le_length.trans hlen.le

end Sys2Proof
end

section
/-! PROOF. Frames (44_frame_reference.md R202, R203, R205, R206): the body parser accepts the bodies `FRAME_ENCODE`
emits and no others, so that `FRAME_DECODE` is its inverse; and the CRC field tells a frame from its neighbours. -/

namespace Sys2Proof

namespace Machine

/-! ## The slots a parse writes -/

/-- Objects written to the slots from `k` on. -/
def Message.setSlots (m : Message) (k : Nat) : List Slot → Message
  | [] => m
  | o :: os => (m.setSlot k o).setSlots (k + 1) os

theorem Message.setSlots_len (m : Message) (k : Nat) (os : List Slot) : (m.setSlots k os).len = m.len := by
  induction os generalizing m k with
  | nil => rfl
  | cons o os ih => exact ih _ _

theorem Message.setSlot_obj_toList (m : Message) (k : Nat) (o : Slot) :
    (m.setSlot k o).obj.toList = m.obj.toList.set k o := by
  simp [Message.setSlot]

theorem Message.setSlots_take (m : Message) {k : Nat} {os : List Slot} (h : k + os.length ≤ 15) :
    (m.setSlots k os).obj.toList.take (k + os.length) = m.obj.toList.take k ++ os := by
  induction os generalizing m k with
  | nil => simp [Message.setSlots]
  | cons o os ih =>
    rw [List.length_cons] at h ⊢
    have hslot : k < m.obj.toList.length := by rw [Vector.length_toList]; omega
    rw [Message.setSlots, show k + (os.length + 1) = k + 1 + os.length by omega, ih _ (by omega),
      Message.setSlot_obj_toList, List.take_add_one, List.getElem?_set_self hslot,
      List.take_set_of_le (le_refl k)]
    simp

/-- A message of these Objects and no others. -/
theorem Message.setSlots_objects (m : Message) {os : List Slot} (h : os.length ≤ 15) :
    ({ m with len := BitVec.ofNat 4 os.length }.setSlots 0 os).objects = os := by
  have hlen : (BitVec.ofNat 4 os.length).toNat = os.length := Nat.mod_eq_of_lt (by omega)
  have htake := Message.setSlots_take { m with len := BitVec.ofNat 4 os.length } (k := 0) (os := os) (by omega)
  rw [Message.objects, Message.setSlots_len, hlen]
  simpa using htake

/-! ## The parser and the encoder (R170, R202) -/

theorem parseObjects_encoded (k : Nat) (m : Message) {os : List Slot} (h : ∀ o ∈ os, o.legal = true) :
    parseObjects os.length k (os.flatMap encodeObject) m = (m.setSlots k os, true) := by
  induction os generalizing k m with
  | nil => rfl
  | cons o os ih =>
    rw [List.forall_mem_cons] at h
    obtain ⟨t, payload, hlen, henc, hdec⟩ := object_of_legal h.1
    rw [List.flatMap_cons, henc, List.length_cons, parseObjects_object _ _ _ _ _ _ hlen, hdec, ih _ _ h.2]
    rfl

theorem objects_of_parseObjects {n k : Nat} {bs : List Byte} {m m' : Message}
    (h : parseObjects n k bs m = (m', true)) :
    ∃ os : List Slot, os.length = n ∧ (∀ o ∈ os, o.legal = true) ∧ bs = os.flatMap encodeObject ∧
      m' = m.setSlots k os := by
  induction n generalizing k bs m with
  | zero =>
    rw [parseObjects_zero, Prod.mk.injEq, List.isEmpty_iff] at h
    obtain ⟨rfl, rfl⟩ := h
    exact ⟨[], rfl, by simp, rfl, rfl⟩
  | succ n ih =>
    obtain ⟨t, rest, rfl, hlen, h⟩ := parseObjects_succ_ok h
    obtain ⟨os, rfl, hlegal, hrest, rfl⟩ := ih h
    obtain ⟨hobject, henc⟩ := decodeObject_legal (List.length_take_of_le hlen)
    refine ⟨decodeObject t (rest.take (payLen t)) :: os, rfl, List.forall_mem_cons.2 ⟨hobject, hlegal⟩, ?_, rfl⟩
    rw [List.flatMap_cons, henc, ← hrest, List.cons_append, List.take_append_drop]

theorem legalMessage_iff (m : List Slot) : legalMessage m = true ↔ m.length ≤ 15 ∧ ∀ o ∈ m, o.legal = true := by
  simp [legalMessage]

theorem countOf_countByte : ∀ n : Nibble, countOf (countByte n) = n.toNat := by decide

theorem countByte_of_countOf : ∀ b : Byte, 0 ≤ countOf b → countOf b ≤ 15 →
    b = countByte (BitVec.ofNat 4 (countOf b).toNat) := by decide +kernel

theorem countOf_countByte_ofNat {n : Nat} (h : n ≤ 15) : countOf (countByte (BitVec.ofNat 4 n)) = n := by
  rw [countOf_countByte, BitVec.toNat_ofNat, Nat.mod_eq_of_lt (by omega)]

/-- The parser succeeds on the body of a legal message and on nothing else, and it stages that message. -/
theorem bodyParse_ok_iff {frame : List Byte} {m m' : Message} :
    bodyParse frame m = (m', true) ↔ ∃ os : List Slot, legalMessage os = true ∧ frame.drop 6 = frameBody os ∧
      m' = { m with len := BitVec.ofNat 4 os.length }.setSlots 0 os := by
  constructor
  · intro h
    obtain ⟨b, rest, hbody, hlo, hhi, h⟩ := bodyParse_ok h
    obtain ⟨os, hlen, hlegal, rfl, rfl⟩ := objects_of_parseObjects h
    have hcount : countOf b = os.length := by omega
    refine ⟨os, (legalMessage_iff os).2 ⟨by omega, hlegal⟩, ?_, ?_⟩
    · rw [hbody, frameBody, hlen, ← countByte_of_countOf b hlo hhi]
    · rw [hcount, BitVec.ofInt_natCast]
  · rintro ⟨os, hlegal, hbody, rfl⟩
    obtain ⟨hlen, hlegal⟩ := (legalMessage_iff os).1 hlegal
    have hcount := countOf_countByte_ofNat hlen
    rw [bodyParse_eq m hbody (by omega) (by omega), hcount, BitVec.ofInt_natCast, Int.toNat_natCast]
    exact parseObjects_encoded 0 _ hlegal

/-- What a parse stages does not depend on the slots it found. -/
theorem bodyParse_ok_objects {frame : List Byte} {m m' : Message} (h : bodyParse frame m = (m', true)) :
    legalMessage m'.objects = true ∧ frame.drop 6 = frameBody m'.objects := by
  obtain ⟨os, hlegal, hbody, rfl⟩ := bodyParse_ok_iff.1 h
  rw [Message.setSlots_objects m (length_le_of_legalMessage hlegal)]
  exact ⟨hlegal, hbody⟩

theorem bodyParse_of_frameBody {frame : List Byte} {os : List Slot} (m : Message) (hlegal : legalMessage os = true)
    (hbody : frame.drop 6 = frameBody os) : ∃ m', bodyParse frame m = (m', true) ∧ m'.objects = os :=
  ⟨_, bodyParse_ok_iff.2 ⟨os, hlegal, hbody, rfl⟩, Message.setSlots_objects m (length_le_of_legalMessage hlegal)⟩

/-! ## The one-shot check (R203) -/

/-- The five checks of `FRAME_DECODE`, with the body it found. -/
theorem frameDecode_eq_some_iff {f : List Byte} {m : List Slot} :
    frameDecode f = some m ↔ (7 ≤ f.length ∧ f.length ≤ 247) ∧ f.getD 0 0 = Config.hdr0 ∧ f.getD 1 0 = Config.hdr1 ∧
      beUnpack 32 ((f.drop 2).take 4) = crc32b 0 (f.drop 6) ∧ legalMessage m = true ∧ f.drop 6 = frameBody m := by
  have hbody : (legalMessage m = true ∧ f.drop 6 = frameBody m) ↔
      ∃ m', bodyParse f Message.zero = (m', true) ∧ m'.objects = m := by
    constructor
    · rintro ⟨hlegal, hbody⟩
      exact bodyParse_of_frameBody Message.zero hlegal hbody
    · rintro ⟨m', hm', rfl⟩
      exact bodyParse_ok_objects hm'
  rw [hbody, frameDecode, Config.minMsgLen, Config.bufSize]
  rcases bodyParse f Message.zero with ⟨m', _ | _⟩
  · split_ifs <;> simp
  · split_ifs <;> simp_all
    omega

/-- The bytes of a frame by their places. -/
theorem eq_frame_of_getD {f : List Byte} (hlen : 7 ≤ f.length) :
    f = f.getD 0 0 :: f.getD 1 0 :: (f.drop 2).take 4 ++ f.drop 6 := by
  match f, hlen with
  | a :: b :: rest, _ =>
    change a :: b :: rest = a :: b :: (rest.take 4 ++ rest.drop 4)
    rw [List.take_append_drop]

theorem frameEncode_length_le {m : List Slot} (h : legalMessage m = true) :
    7 ≤ (frameEncode m).length ∧ (frameEncode m).length ≤ 247 := by
  obtain ⟨-, -, hsize, -⟩ := frameSizes
  obtain ⟨heq, hlo, hhi⟩ := hsize m h
  rw [heq]
  exact ⟨hlo, hhi⟩

theorem frameEncode_drop_six (m : List Slot) : (frameEncode m).drop 6 = frameBody m := by
  have hhead : (Config.hdr0 :: Config.hdr1 :: bePack 4 (crc32b 0 (frameBody m))).length = 6 := by simp
  rw [frameEncode, ← hhead, List.drop_left]

theorem frameEncode_crcField (m : List Slot) :
    ((frameEncode m).drop 2).take 4 = bePack 4 (crc32b 0 (frameBody m)) := by
  change (bePack 4 (crc32b 0 (frameBody m)) ++ frameBody m).take 4 = _
  exact List.take_left' (bePack_length 4 _)

theorem frameDecode_frameEncode {m : List Slot} (h : legalMessage m = true) : frameDecode (frameEncode m) = some m := by
  rw [frameDecode_eq_some_iff, frameEncode_drop_six, frameEncode_crcField]
  exact ⟨frameEncode_length_le h, rfl, rfl, beUnpack_bePack (n := 4) _, h, rfl⟩

theorem legalMessage_of_frameDecode {f : List Byte} {m : List Slot} (h : frameDecode f = some m) :
    legalMessage m = true := by
  obtain ⟨-, -, -, -, hlegal, -⟩ := frameDecode_eq_some_iff.1 h
  exact hlegal

theorem frameEncode_of_frameDecode {f : List Byte} {m : List Slot} (h : frameDecode f = some m) :
    frameEncode m = f := by
  obtain ⟨⟨hlen, -⟩, h0, h1, hcrc, -, hbody⟩ := frameDecode_eq_some_iff.1 h
  have hfield : ((f.drop 2).take 4).length = 4 := by
    rw [List.length_take, List.length_drop]
    omega
  rw [eq_frame_of_getD hlen, h0, h1, hbody, frameEncode, ← hbody, ← hcrc]
  exact congrArg (fun c => _ :: _ :: c ++ _) (bePack_beUnpack (n := 4) hfield)

/-! ## One flipped bit (R206) -/

theorem modify_ne_self {α : Type} {l : List α} {f : α → α} {k : Nat} (hk : k < l.length) (hf : ∀ a, f a ≠ a) :
    l.modify k f ≠ l := by
  intro h
  have hkth := congrArg (·[k]?) h
  simp only [List.getElem?_modify, List.getElem?_eq_getElem hk] at hkth
  simp at hkth
  exact hf _ hkth

theorem crc32b_modify_ne (seed : Crc) {l : List Byte} {f : Byte → Byte} {k : Nat} (hk : k < l.length)
    (hf : ∀ a, f a ≠ a) : crc32b seed (l.modify k f) ≠ crc32b seed l := by
  have hsplit : l = l.take k ++ l[k] :: l.drop (k + 1) := by simp
  rw [List.modify_eq_take_cons_drop hk]
  conv_rhs => rw [hsplit]
  exact crc32b_ne_of_byte_ne seed _ _ (hf _)

theorem getD_modify_self {α : Type} {l : List α} (f : α → α) (d : α) {k : Nat} (hk : k < l.length) :
    (l.modify k f).getD k d = f (l.getD k d) := by
  simp [hk]

/-- A frame with one byte changed: in the header it is seen at once, in the CRC field the body still has its old
CRC, in the body the field still holds the old one. -/
theorem frameDecode_modify {f : List Byte} {m : List Slot} (h : frameDecode f = some m) {g : Byte → Byte} {k : Nat}
    (hk : k < f.length) (hg : ∀ a, g a ≠ a) : frameDecode (f.modify k g) = none := by
  by_contra hsome
  obtain ⟨m', h'⟩ := Option.ne_none_iff_exists'.1 hsome
  obtain ⟨-, h0, h1, hcrc, -, hbody⟩ := frameDecode_eq_some_iff.1 h
  obtain ⟨-, h0', h1', hcrc', -, hbody'⟩ := frameDecode_eq_some_iff.1 h'
  obtain rfl | rfl | ⟨hlo, hhi⟩ | hlo : k = 0 ∨ k = 1 ∨ (2 ≤ k ∧ k < 6) ∨ 6 ≤ k := by omega
  · rw [getD_modify_self g 0 hk, h0] at h0'
    exact hg _ h0'
  · rw [getD_modify_self g 0 hk, h1] at h1'
    exact hg _ h1'
  · rw [List.drop_modify_of_lt _ _ _ _ hhi, hbody] at hbody'
    refine modify_ne_self hk hg ?_
    calc f.modify k g = frameEncode m' := (frameEncode_of_frameDecode h').symm
      _ = frameEncode m := by rw [frameEncode, frameEncode, hbody']
      _ = f := frameEncode_of_frameDecode h
  · have hfield : ((f.modify k g).drop 2).take 4 = (f.drop 2).take 4 := by
      rw [List.drop_modify_of_ge _ _ _ _ (by omega), List.take_modify]
      exact List.modify_eq_self (by rw [List.length_take]; omega)
    rw [hfield, hcrc, List.drop_modify_of_ge _ _ _ _ hlo] at hcrc'
    exact crc32b_modify_ne 0 (by rw [List.length_drop]; omega) hg hcrc'.symm

end Machine

open Machine

/-- Settles O50: the parser accepts exactly the bodies the encoder emits, and the CRC field is its own inverse. -/
theorem frameRoundTrip : Obligations.FrameRoundTrip := by
  unfold Obligations.FrameRoundTrip
  exact ⟨fun m => frameDecode_frameEncode,
    fun frame m h => ⟨frameEncode_of_frameDecode h, legalMessage_of_frameDecode h⟩⟩

/-- A flipped bit is a changed byte. -/
theorem xor_shiftLeft_one_ne {j : Nat} (hj : j < 8) (a : Byte) : a ^^^ 1#8 <<< j ≠ a := by
  intro h
  have hbit := congrArg (·.getLsbD j) h
  simp [hj] at hbit

/-- Settles O51: a flipped bit is a changed byte, which the header, the CRC field or the body shows. -/
theorem oneFlippedBitIsDetected : Obligations.OneFlippedBitIsDetected := by
  unfold Obligations.OneFlippedBitIsDetected
  exact fun frame m h k j hk hj => frameDecode_modify h hk (xor_shiftLeft_one_ne hj)

end Sys2Proof
end

section
/-! PROOF. Undefined and refused reads (43_body_decode_msg.md R179, 30_encoding.md R73). -/

namespace Sys2Proof

open Machine

/-- Settles O22: an undefined read is one `readStaged`, whatever it would have read. -/
theorem eachUndefinedReadDrawsAFreshValue : Obligations.EachUndefinedReadDrawsAFreshValue := by
  unfold Obligations.EachUndefinedReadDrawsAFreshValue
  refine fun s i j hi hj => ⟨fun hvalid => ?_, fun hundefined op hop => ?_⟩
  · have hread := exec_msgLen s
    rwa [hvalid] at hread
  · obtain ⟨value, hread⟩ := exec_indexedRead hi hj s op hop
    rwa [State.slotDefined_eq_false hundefined] at hread

namespace Machine

theorem readSlot_fifteen (f : Slot → Port64) (s : State) :
    readSlot 15 f s = .refused (.reservedWord .reservedSlotIndex) := rfl

theorem exec_msgStrb_byteIndex_fifteen (i : Nibble) (s : State) :
    exec (.msgStrb i 15) s = .refused (.reservedWord .reservedByteIndex) := rfl

theorem exec_msgStrb_slotIndex_fifteen {j : Nibble} (hj : j ≠ 15) (s : State) :
    exec (.msgStrb 15 j) s = .refused (.reservedWord .reservedSlotIndex) := by
  have hbyte : byteIndexOk j = true := bne_iff_ne.2 hj
  exact (if_pos hbyte).trans (readSlot_fifteen _ s)

end Machine

/-- Settles O23: the slot index is tested by the read of a slot, the byte index before it. -/
theorem indexFifteenIsRefused : Obligations.IndexFifteenIsRefused := by
  unfold Obligations.IndexFifteenIsRefused
  exact fun s i j => ⟨readSlot_fifteen (fun o => o.kind.setWidth 64) s, readSlot_fifteen (fun o => o.val) s,
    readSlot_fifteen (fun o => o.slen.setWidth 64) s, exec_msgStrb_byteIndex_fifteen i s,
    fun hj => exec_msgStrb_slotIndex_fifteen hj s⟩

end Sys2Proof
end

section
/-! PROOF. What an operation can do, said once for the two kinds of operation: one that gives the synchronizer a
byte, and every other. Totality (70_reset_and_hazards.md R283), the frame of the other operations
(60_exceptions.md R240), and the checksum of a program (40_crc.md R108) follow. -/

namespace Sys2Proof

namespace Machine

/-! ## Operations that give the synchronizer a byte -/

theorem encode_of_putByte {i : Instr} {b : Byte} (h : putByte i = some b) :
    i = .syncPut b ∨ ∃ role, encode i = .wire role b := by
  unfold putByte at h
  split at h
  · cases h
    exact .inl rfl
  · split at h
    · next role c henc =>
      cases h
      exact .inr ⟨role, henc⟩
    · cases h

/-- `SYNC.PUT` and the wire rows do the synchronizer's step on their byte. -/
theorem exec_of_putByte {i : Instr} {b : Byte} (h : putByte i = some b) (s : State) :
    exec i s = .next (syncNext b s) := by
  obtain rfl | ⟨role, henc⟩ := encode_of_putByte h
  · exact exec_syncPut b s
  · exact exec_wire henc s

/-! ## Every operation is total (R283) -/

theorem exec_wellFormed {i : Instr} (s : State) (h : i.wellFormed = true) : ∃ t, exec i s = .next t := by
  cases i with
  | nop | crcSeed | crcByte | crcRead | msgLen => exact ⟨_, rfl⟩
  | bePack8 | bePack16 | bePack32 | bePack64 | beUnpack8 | beUnpack16 | beUnpack32 | beUnpack64 => exact ⟨_, rfl⟩
  | syncPut b => exact ⟨_, exec_syncPut b s⟩
  | msgKind k => exact ⟨_, exec_msgKind (bne_iff_ne.1 h) s⟩
  | msgVal k => exact ⟨_, exec_msgVal (bne_iff_ne.1 h) s⟩
  | msgSlen k => exact ⟨_, exec_msgSlen (bne_iff_ne.1 h) s⟩
  | msgStrb k j =>
    obtain ⟨hslot, hbyte⟩ := (Bool.and_eq_true _ _).mp h
    exact ⟨_, exec_msgStrb (bne_iff_ne.1 hslot) (bne_iff_ne.1 hbyte) s⟩
  | _ => exact ⟨_, exec_wire rfl s⟩

/-- The ill-formed instructions are the reads with an index of 15 (R73). -/
theorem exec_illFormed {i : Instr} (s : State) (h : i.wellFormed = false) :
    ∃ why, exec i s = .refused (.reservedWord why) := by
  have hslot : ∀ {k : Nibble}, slotIndexOk k = false → k = 15 := fun h => by simpa [slotIndexOk] using h
  cases i with
  | msgKind k | msgVal k | msgSlen k =>
    obtain rfl := hslot h
    exact ⟨_, rfl⟩
  | msgStrb k j =>
    by_cases hj : j = 15
    · exact ⟨_, hj ▸ exec_msgStrb_byteIndex_fifteen k s⟩
    · have hbyte : byteIndexOk j = true := bne_iff_ne.2 hj
      have hk : slotIndexOk k = false := by simpa [Instr.wellFormed, hbyte] using h
      exact ⟨_, hslot hk ▸ exec_msgStrb_slotIndex_fifteen hj s⟩
  | _ => exact Bool.noConfusion h

theorem exec_ne_fault (i : Instr) (s : State) (r : Fault) : exec i s ≠ .fault r := by
  intro hfault
  cases hwf : i.wellFormed with
  | true =>
    obtain ⟨t, ht⟩ := exec_wellFormed s hwf
    cases hfault.symm.trans ht
  | false =>
    obtain ⟨why, hwhy⟩ := exec_illFormed s hwf
    cases hfault.symm.trans hwhy

theorem step_ne_fault (s : State) (r : Fault) : step s ≠ .fault r := by
  intro hfault
  unfold step at hfault
  split at hfault
  · cases hfault
  · cases hfault
  · unfold runWord at hfault
    split at hfault
    · exact exec_ne_fault _ _ r hfault
    · cases hfault

/-! ## Every other operation -/

/-- The reads of the staged message (R174 to R178). -/
def stagedRead (i : Instr) : Prop :=
  i = .msgLen ∨ ∃ k j, i = .msgKind k ∨ i = .msgVal k ∨ i = .msgSlen k ∨ i = .msgStrb k j

/-- What an operation that gives the synchronizer no byte can leave: it writes the accumulator, or draws a free
value, or only drives the result port; `flag` is 0 each time. -/
inductive OtherEnd (i : Instr) (s : State) : State → Prop
  | result (res : Port64) (hseed : ∀ seed, i ≠ .crcSeed seed) (hbyte : engineByte i = none) :
    OtherEnd i s (s.finish res false)
  | seed (seed : Crc) (h : i = .crcSeed seed) : OtherEnd i s ({ s with crcAcc := seed }.finish 0 false)
  | byte (b : Byte) (h : i = .crcByte b) :
    OtherEnd i s ({ s with crcAcc := crcFeed s.crcAcc b }.finish 0 false)
  | draw (h : stagedRead i) :
    OtherEnd i s ({ s with draws := s.draws + 1 }.finish (Config.staleRead s.draws) false)

theorem otherEnd_readStaged {i : Instr} (h : stagedRead i) (s : State) (defined : Bool) (value : Port64) :
    OtherEnd i s (s.readStaged defined value) := by
  cases defined with
  | false => exact .draw h
  | true =>
    obtain rfl | ⟨k, j, rfl | rfl | rfl | rfl⟩ := h <;>
      exact .result value (fun _ => Instr.noConfusion) rfl

theorem otherEnd_of_readSlot {i : Instr} (h : stagedRead i) {k : Nibble} {f : Slot → Port64} {s t : State}
    (hread : readSlot k f s = .next t) : OtherEnd i s t := by
  unfold readSlot at hread
  split at hread
  · cases hread
    exact otherEnd_readStaged h s _ _
  · cases hread

theorem otherEnd_of_exec {i : Instr} {s t : State} (hput : putByte i = none) (h : exec i s = .next t) :
    OtherEnd i s t := by
  cases i with
  | crcSeed seed => cases h; exact .seed seed rfl
  | crcByte b => cases h; exact .byte b rfl
  | nop | crcRead => cases h; exact .result _ (fun _ => Instr.noConfusion) rfl
  | bePack8 | bePack16 | bePack32 | bePack64 | beUnpack8 | beUnpack16 | beUnpack32 | beUnpack64 =>
    cases h; exact .result _ (fun _ => Instr.noConfusion) rfl
  | msgLen => cases h; exact otherEnd_readStaged (.inl rfl) s _ _
  | msgKind k => exact otherEnd_of_readSlot (f := fun o => o.kind.setWidth 64) (.inr ⟨k, 0, .inl rfl⟩) h
  | msgVal k => exact otherEnd_of_readSlot (f := fun o => o.val) (.inr ⟨k, 0, .inr (.inl rfl)⟩) h
  | msgSlen k => exact otherEnd_of_readSlot (f := fun o => o.slen.setWidth 64) (.inr ⟨k, 0, .inr (.inr (.inl rfl))⟩) h
  | msgStrb k j =>
    change execMsgStrb k j s = .next t at h
    unfold execMsgStrb at h
    split at h
    · exact otherEnd_of_readSlot (.inr ⟨k, j, .inr (.inr (.inr rfl))⟩) h
    · cases h
  | _ => cases hput

theorem OtherEnd.syncPart_eq {i : Instr} {s t : State} (h : OtherEnd i s t) : t.syncPart = s.syncPart := by
  cases h <;> rfl

end Machine

open Machine

/-- Settles O10: every arm of a well-formed instruction ends, every index of 15 is refused, and a step performs one
instruction, resets or waits. -/
theorem everyOperationEndsInANextState : Obligations.EveryOperationEndsInANextState := by
  unfold Obligations.EveryOperationEndsInANextState
  exact ⟨fun _ s => exec_wellFormed s, fun _ s => exec_illFormed s, step_ne_fault⟩

/-- Settles O36: in each of the ways such an operation can end. -/
theorem otherOperationsFrame : Obligations.OtherOperationsFrame := by
  unfold Obligations.OtherOperationsFrame
  intro i s t hput h
  cases otherEnd_of_exec hput h with
  | result res => exact ⟨rfl, fun _ => rfl, rfl, rfl, ⟨res, rfl⟩, fun _ _ => rfl, .inl rfl⟩
  | seed seed hi => exact ⟨rfl, fun _ => rfl, rfl, rfl, ⟨0, rfl⟩, fun hseed _ => absurd hi (hseed seed), .inl rfl⟩
  | byte b hi => exact ⟨rfl, fun _ => rfl, rfl, rfl, ⟨0, rfl⟩, fun _ hbyte => absurd hi (hbyte b), .inl rfl⟩
  | draw hread => exact ⟨rfl, fun _ => rfl, rfl, rfl, ⟨_, rfl⟩, fun _ _ => rfl, .inr ⟨rfl, rfl, hread⟩⟩

end Sys2Proof
end

section
/-! PROOF. The frame of `SYNC.PUT` and of the wire rows (42_sync_put.md R140 to R150): what each arm leaves of the
registers, then what the end of the step leaves of the arm's. -/

namespace Sys2Proof

namespace Machine

theorem toNat_overSizeGuard_len (s : State) : (overSizeGuard s).len.toNat = offsetOf s := by
  rw [overSizeGuard_len, offsetOf]
  split <;> rfl

/-- The registers the arm of each offset leaves alone (R142 to R146). -/
theorem dispatchArm_registers (b : Byte) (s : State) :
    (s.len.toNat ≤ 5 → (dispatchArm b s).state.remainingObjects = s.remainingObjects ∧
      (dispatchArm b s).state.remainingBytes = s.remainingBytes) ∧
    (s.len.toNat = 0 ∨ 6 ≤ s.len.toNat → (dispatchArm b s).state.crcHeader = s.crcHeader) ∧
    (s.len.toNat ≠ 1 → s.len.toNat ≤ 5 → (dispatchArm b s).state.crcBody = s.crcBody) := by
  obtain h | h | ⟨hlo, hhi⟩ | h | h : s.len.toNat = 0 ∨ s.len.toNat = 1 ∨
      (2 ≤ s.len.toNat ∧ s.len.toNat ≤ 5) ∨ s.len.toNat = 6 ∨ 7 ≤ s.len.toNat := by omega
  · rw [dispatchArm_hdr0 h, armHdr0]
    split <;> exact ⟨fun _ => ⟨rfl, rfl⟩, fun _ => rfl, fun _ _ => rfl⟩
  · rw [dispatchArm_hdr1 h, armHdr1]
    split <;> exact ⟨fun _ => ⟨rfl, rfl⟩, fun hoff => absurd hoff (by omega), fun hoff => absurd h hoff⟩
  · rw [dispatchArm_crcField hlo hhi]
    exact ⟨fun _ => ⟨rfl, rfl⟩, fun hoff => absurd hoff (by omega), fun _ _ => rfl⟩
  · rw [dispatchArm_count h, armCount]
    refine ⟨fun hoff => absurd hoff (by omega), fun _ => ?_, fun _ hoff => absurd hoff (by omega)⟩
    dsimp only
    split <;> rfl
  · rw [dispatchArm_body h, armBody]
    refine ⟨fun hoff => absurd hoff (by omega), fun _ => ?_, fun _ hoff => absurd hoff (by omega)⟩
    split
    · rfl
    · split
      · dsimp only
        split <;> rfl
      · rfl

/-- What the end of a step on byte `b` leaves, from the registers `u` as the arm had them (R147 to R149, R252). -/
structure StepEnd (b : Byte) (u t : State) : Prop where
  crcAcc : t.crcAcc = u.crcAcc
  issue : t.issue = u.issue
  draws : t.draws = u.draws
  remainingObjects : t.remainingObjects = u.remainingObjects
  remainingBytes : t.remainingBytes = u.remainingBytes
  crcHeader : t.crcHeader = u.crcHeader
  crcBody : t.crcBody = u.crcBody
  len : t.len = 0 ∨ t.len.toNat = u.len.toNat + 1
  buf : t.buf = u.buf ∨ t.buf = Memory.write u.buf u.len.toNat b
  msg : t.report.flag = false → t.ghostReject ≠ some .body → t.msg = u.msg
  msgValid : t.msgValid = t.report.flag
  result : ∃ flag, t.result = some ⟨0, flag⟩

theorem syncNext_stepEnd (b : Byte) (s : State) :
    StepEnd b (dispatchArm b (overSizeGuard s)).state (syncNext b s) := by
  have hlt := overSizeGuard_lt s
  have hframe := dispatchArm_frame b (overSizeGuard s)
  obtain ⟨cause, u, harm, hnext⟩ | ⟨u, harm, ⟨-, hnext⟩ | ⟨-, -, hnext⟩ | ⟨-, -, hnext⟩⟩ := syncNext_cases b s <;>
    rw [hnext] <;> rw [harm] at hframe ⊢
  · exact ⟨rfl, rfl, rfl, rfl, rfl, rfl, rfl, .inl rfl, .inl rfl, fun _ _ => rfl, rfl, false, rfl⟩
  · have hlen : (stored b u).len.toNat = u.len.toNat + 1 := stored_len b (by rwa [show u.len = _ from hframe.len])
    exact ⟨rfl, rfl, rfl, rfl, rfl, rfl, rfl, .inr hlen, .inr rfl, fun _ _ => rfl, rfl, false, rfl⟩
  · exact ⟨rfl, rfl, rfl, rfl, rfl, rfl, rfl, .inl rfl, .inr rfl, fun _ _ => rfl, rfl, false, rfl⟩
  · rcases bodyParse (Memory.slice (stored b u).buf 0 (stored b u).len.toNat) u.msg with ⟨m, _ | _⟩
    · exact ⟨rfl, rfl, rfl, rfl, rfl, rfl, rfl, .inl rfl, .inr rfl, fun _ hbody => absurd rfl hbody, rfl, false, rfl⟩
    · exact ⟨rfl, rfl, rfl, rfl, rfl, rfl, rfl, .inl rfl, .inr rfl, fun hflag => Bool.noConfusion hflag, rfl, true, rfl⟩

/-- No step of the synchronizer touches the CRC engine (R112). -/
theorem syncNext_crcAcc (b : Byte) (s : State) : (syncNext b s).crcAcc = s.crcAcc := by
  rw [(syncNext_stepEnd b s).crcAcc, (dispatchArm_frame b _).crcAcc, overSizeGuard_frame]

theorem syncNext_issue (b : Byte) (s : State) : (syncNext b s).issue = s.issue := by
  rw [(syncNext_stepEnd b s).issue, (dispatchArm_frame b _).issue, overSizeGuard_frame]

theorem syncNext_len (b : Byte) (s : State) :
    (syncNext b s).len = 0 ∨ (syncNext b s).len.toNat = offsetOf s + 1 := by
  have hlen := (syncNext_stepEnd b s).len
  rwa [(dispatchArm_frame b _).len, toNat_overSizeGuard_len] at hlen

end Machine

open Machine

/-- Settles O35: the arm's registers by its offset, and the end of the step for the rest. -/
theorem synchronizerFrame : Obligations.SynchronizerFrame := by
  unfold Obligations.SynchronizerFrame
  intro i b s t hput h
  cases h.symm.trans (exec_of_putByte hput s)
  have hend := syncNext_stepEnd b s
  have harm := dispatchArm_frame b (overSizeGuard s)
  obtain ⟨hcounters, hheader, hbody⟩ := dispatchArm_registers b (overSizeGuard s)
  rw [toNat_overSizeGuard_len] at hcounters hheader hbody
  have hbuf := hend.buf
  rw [harm.len, toNat_overSizeGuard_len, harm.buf, overSizeGuard_frame] at hbuf
  rw [hend.remainingObjects, hend.remainingBytes, hend.crcHeader, hend.crcBody]
  refine ⟨syncNext_crcAcc b s, syncNext_issue b s, ?_, syncNext_len b s, fun a ha => ?_, ?_, fun hoff => ?_,
    fun hoff => ?_, fun hone hoff => ?_, fun hflag hcause => ?_, hend.msgValid, hend.result⟩
  · rw [hend.draws, harm.draws, overSizeGuard_frame]
  · rcases hbuf with hbuf | hbuf
    · rw [hbuf]
    · rw [hbuf, Memory.read_write_ne _ _ ha]
  · exact hbuf.imp_right fun hbuf => by rw [hbuf, Memory.read_write_same]
  · rw [(hcounters hoff).1, (hcounters hoff).2, overSizeGuard_frame]
    exact ⟨rfl, rfl⟩
  · rw [hheader hoff, overSizeGuard_frame]
  · rw [hbody hone hoff, overSizeGuard_frame]
  · rw [hend.msg hflag hcause, harm.msg, overSizeGuard_frame]

/-! ## Programs -/

namespace Machine

theorem runOps_append (p q : List Instr) (s : State) : runOps (p ++ q) s = andThen (runOps p s) (runOps q) := by
  induction p generalizing s with
  | nil => rfl
  | cons i p ih =>
    rw [List.cons_append, runOps, runOps]
    cases exec i s with
    | next t => exact ih t
    | fault r => rfl
    | refused r => rfl

theorem engineByte_of_putByte {i : Instr} {b : Byte} (h : putByte i = some b) : engineByte i = none := by
  cases i with
  | crcByte => cases h
  | _ => rfl

/-- The accumulator takes in the byte of a `CRC.BYTE`, and only `CRC.SEED` writes it otherwise (R106, R108). -/
theorem exec_crcAcc {i : Instr} (s : State) (hwf : i.wellFormed = true) (hseed : ∀ seed, i ≠ .crcSeed seed) :
    ∃ t, exec i s = .next t ∧ t.crcAcc = crc32b s.crcAcc (engineByte i).toList := by
  obtain ⟨t, ht⟩ := exec_wellFormed s hwf
  refine ⟨t, ht, ?_⟩
  cases hput : putByte i with
  | some b =>
    cases ht.symm.trans (exec_of_putByte hput s)
    rw [engineByte_of_putByte hput, syncNext_crcAcc]
    exact (crc32b_nil _).symm
  | none =>
    cases otherEnd_of_exec hput ht with
    | result res _ hbyte => rw [hbyte]; exact (crc32b_nil _).symm
    | seed seed hi => exact absurd hi (hseed seed)
    | byte b hi => subst hi; exact crcFeed_eq_crc32b s.crcAcc b
    | draw hread => obtain rfl | ⟨k, j, rfl | rfl | rfl | rfl⟩ := hread <;> exact (crc32b_nil _).symm

theorem runOps_crcAcc {p : List Instr} (s : State)
    (hp : ∀ i ∈ p, i.wellFormed = true ∧ ∀ seed, i ≠ .crcSeed seed) :
    ∃ t, runOps p s = .next t ∧ t.crcAcc = crc32b s.crcAcc (p.filterMap engineByte) := by
  induction p generalizing s with
  | nil => exact ⟨s, rfl, (crc32b_nil _).symm⟩
  | cons i p ih =>
    rw [List.forall_mem_cons] at hp
    obtain ⟨⟨hwf, hseed⟩, hp⟩ := hp
    obtain ⟨u, hu, hacc⟩ := exec_crcAcc s hwf hseed
    obtain ⟨t, ht, hrest⟩ := ih u hp
    refine ⟨t, by rw [runOps, hu]; exact ht, ?_⟩
    rw [hrest, hacc, ← crc32b_append]
    cases hbyte : engineByte i <;> simp [hbyte]

end Machine

/-- Settles O16: by induction on the operations between the seed and the read. -/
theorem crcProgramReturnsTheChecksum : Obligations.CrcProgramReturnsTheChecksum := by
  unfold Obligations.CrcProgramReturnsTheChecksum
  intro s seed p hp
  obtain ⟨u, hu, hacc⟩ := runOps_crcAcc ({ s with crcAcc := seed }.finish 0 false) hp
  refine ⟨u.finish (u.crcAcc.setWidth 64) false, ?_, by rw [hacc]; rfl⟩
  rw [List.cons_append, runOps, exec_crcSeed, andThen_next, runOps_append, hu]
  rfl

/-! ## The synchronizer alone -/

namespace Machine

/-- The label of the reject an arm raised, if it raised one. -/
def ArmEnd.cause : ArmEnd → Option RejectCause
  | .store _ => none
  | .raise cause _ => some cause

theorem syncPart_eq_iff (s t : State) : s.syncPart = t.syncPart ↔
    s.len = t.len ∧ s.remainingObjects = t.remainingObjects ∧ s.remainingBytes = t.remainingBytes ∧
      s.crcHeader = t.crcHeader ∧ s.crcBody = t.crcBody ∧ s.buf = t.buf ∧ s.msg = t.msg ∧
      s.msgValid = t.msgValid := by
  simp only [State.syncPart, SyncPart.mk.injEq]

theorem overSizeGuard_congr {s t : State} (h : s.syncPart = t.syncPart) :
    (overSizeGuard s).syncPart = (overSizeGuard t).syncPart := by
  simp only [syncPart_eq_iff, overSizeGuard_len] at h ⊢
  rw [overSizeGuard_frame s, overSizeGuard_frame t]
  exact ⟨by rw [h.1], h.2⟩

/-- An arm sees and writes the synchronizer's part alone. -/
theorem dispatchArm_congr (b : Byte) {s t : State} (h : s.syncPart = t.syncPart) :
    (dispatchArm b s).cause = (dispatchArm b t).cause ∧
      (dispatchArm b s).state.syncPart = (dispatchArm b t).state.syncPart := by
  obtain ⟨hlen, hobjects, hbytes, hheader, hbody, hbuf, hmsg, hvalid⟩ := (syncPart_eq_iff s t).1 h
  unfold dispatchArm armHdr0 armHdr1 armCrcField armCount armBody
  simp only [hlen, hobjects, hbytes, hheader, hbody]
  cases decodeTag b <;> split_ifs <;>
    simp only [ArmEnd.cause, ArmEnd.state, State.syncPart, hlen, hobjects, hbytes, hheader, hbody, hbuf, hmsg, hvalid,
      and_self]

theorem afterStoreNext_congr {s t : State} (h : s.syncPart = t.syncPart) :
    (afterStoreNext s).syncPart = (afterStoreNext t).syncPart := by
  obtain ⟨hlen, hobjects, hbytes, hheader, hbody, hbuf, hmsg, -⟩ := (syncPart_eq_iff s t).1 h
  have hcomplete : s.complete = t.complete := by simp only [State.complete, hlen, hobjects, hbytes]
  have hmatch : s.crcMatches = t.crcMatches := by simp only [State.crcMatches, hheader, hbody]
  rw [afterStoreNext, afterStoreNext, hcomplete, hmatch, hbuf, hlen, hmsg, syncPart_eq_iff]
  cases t.complete with
  | false => exact ⟨hlen, hobjects, hbytes, hheader, hbody, hbuf, hmsg, rfl⟩
  | true =>
    cases t.crcMatches with
    | false => exact ⟨rfl, hobjects, hbytes, hheader, hbody, hbuf, hmsg, rfl⟩
    | true =>
      rcases bodyParse (Memory.slice t.buf 0 t.len.toNat) t.msg with ⟨m, _ | _⟩ <;>
        exact ⟨rfl, hobjects, hbytes, hheader, hbody, hbuf, rfl, rfl⟩

theorem stored_congr (b : Byte) {s t : State} (h : s.syncPart = t.syncPart) :
    (stored b s).syncPart = (stored b t).syncPart := by
  obtain ⟨hlen, hobjects, hbytes, hheader, hbody, hbuf, hmsg, hvalid⟩ := (syncPart_eq_iff s t).1 h
  simp only [stored, State.syncPart, hlen, hobjects, hbytes, hheader, hbody, hbuf, hmsg, hvalid]

/-- The synchronizer's step is a function of the synchronizer's part (R112). -/
theorem syncNext_congr (b : Byte) {s t : State} (h : s.syncPart = t.syncPart) :
    (syncNext b s).syncPart = (syncNext b t).syncPart := by
  obtain ⟨hcause, hstate⟩ := dispatchArm_congr b (overSizeGuard_congr h)
  unfold syncNext
  cases hs : dispatchArm b (overSizeGuard s) with
  | store u =>
    cases ht : dispatchArm b (overSizeGuard t) with
    | store v =>
      rw [hs, ht] at hstate
      exact afterStoreNext_congr (stored_congr b hstate)
    | raise cause v => rw [hs, ht] at hcause; cases hcause
  | raise cause u =>
    cases ht : dispatchArm b (overSizeGuard t) with
    | store v => rw [hs, ht] at hcause; cases hcause
    | raise cause' v =>
      rw [hs, ht] at hstate
      obtain ⟨-, hobjects, hbytes, hheader, hbody, hbuf, hmsg, -⟩ := (syncPart_eq_iff _ _).1 hstate
      exact (syncPart_eq_iff _ _).2 ⟨rfl, hobjects, hbytes, hheader, hbody, hbuf, hmsg, rfl⟩

/-- Two runs from states of one synchronizer's part, one of the whole program, one of its bytes alone. -/
theorem runOps_filter_putByte {p : List Instr} {s s' t u : State} (h : s.syncPart = s'.syncPart)
    (ht : runOps p s = .next t) (hu : runOps (p.filter fun i => (putByte i).isSome) s' = .next u) :
    t.syncPart = u.syncPart := by
  induction p generalizing s s' with
  | nil =>
    cases ht
    cases hu
    exact h
  | cons i p ih =>
    obtain ⟨v, hv, ht⟩ := andThen_eq_next ht
    cases hput : putByte i with
    | none =>
      rw [List.filter_cons_of_neg (by simp [hput])] at hu
      exact ih ((otherEnd_of_exec hput hv).syncPart_eq.trans h) ht hu
    | some b =>
      rw [List.filter_cons_of_pos (by simp [hput])] at hu
      obtain ⟨v', hv', hu⟩ := andThen_eq_next hu
      cases hv.symm.trans (exec_of_putByte hput s)
      cases hv'.symm.trans (exec_of_putByte hput s')
      exact ih (syncNext_congr b h) ht hu

end Machine

/-- Settles O37: the other operations keep the synchronizer's part, and its own step sees nothing else. -/
theorem synchronizerIgnoresTheOtherUnits : Obligations.SynchronizerIgnoresTheOtherUnits := by
  unfold Obligations.SynchronizerIgnoresTheOtherUnits
  exact fun p s t u => runOps_filter_putByte rfl

end Sys2Proof
end

section
/-! PROOF. Wire rows in their places (30_encoding.md R77 to R81): each is the `SYNC.PUT` of its byte, whose arms are
settled above. -/

namespace Sys2Proof

namespace Machine

theorem countByte_eq_or : ∀ n : Nibble, countByte n = 0x90 ||| n.setWidth 8 := by decide

/-- A count byte is below `0xA0`, and its count is its low nibble (R79). -/
theorem countByte_toNat : ∀ n : Nibble, (countByte n).toNat < 0xA0 ∧
    BitVec.ofInt 9 (((countByte n).toNat : Int) - 0x90) = n.setWidth 9 := by decide

/-- A tag where one is expected (R146). -/
theorem exec_tagInstr {s : State} (h : tagExpected s) (t : Tag) :
    exec t.instr s =
      .next (afterBodyByte (grown s t.byte (s.remainingObjects - 1) (BitVec.ofNat 4 (payLen t)))) := by
  obtain ⟨hlo, hhi, hbytes, hobjects⟩ := h
  obtain ⟨-, htag, -⟩ := bodyByteByBranch s t.byte hlo hhi
  rw [exec_wire_eq_exec_syncPut (encode_tagInstr t).1]
  exact (htag hbytes hobjects).1 t (decodeTag_byte t)

end Machine

open Machine

/-- Settles O32: by the arm of each place. -/
theorem wireRowsInTheirPlaces : Obligations.WireRowsInTheirPlaces := by
  unfold Obligations.WireRowsInTheirPlaces
  refine fun s => ⟨fun hlen => ?_, fun hlen => ?_, fun hlo hhi c => ?_, fun hlen n => ?_, fun htag => ⟨?_, fun l => ?_⟩⟩
  · rw [exec_wire_eq_exec_syncPut rfl]
    exact ((headerBytesAreStoredOrRejected s 0).1 hlen).1
  · rw [exec_wire_eq_exec_syncPut rfl]
    exact ((headerBytesAreStoredOrRejected s 0).2 hlen).1
  · rw [exec_wire_eq_exec_syncPut rfl]
    exact crcFieldByteIsShiftedIn s c hlo hhi
  · obtain ⟨hlt, hcount⟩ := countByte_toNat n
    obtain ⟨-, -, hstore⟩ := countByteSetsTheCounters s (countByte n) hlen
    rw [exec_wire_eq_exec_syncPut rfl, hstore hlt, hcount, countByte_eq_or]
  · simp only [List.forall_mem_cons]
    have hrow := exec_tagInstr htag
    exact ⟨hrow .boolFalse, hrow .boolTrue, hrow .float, hrow .double, hrow .uint8, hrow .uint16, hrow .uint32,
      hrow .uint64, hrow .int8, hrow .int16, hrow .int32, hrow .int64, by simp⟩
  · have hrow := exec_tagInstr htag (.string l)
    rw [Tag.byte_string, payLen, BitVec.ofNat_toNat, BitVec.setWidth_eq] at hrow
    exact hrow

end Sys2Proof
end

section
/-! PROOF. A `Reset` event's junk (70_reset_and_hazards.md R270). -/

namespace Sys2Proof

open Machine

/-- Settles O8: the registers are written by the event, and the buffer's bytes one after another from address 0. -/
theorem resetEventLeavesItsJunk : Obligations.ResetEventLeavesItsJunk := by
  unfold Obligations.ResetEventLeavesItsJunk
  intro s junk rest hissue
  rw [step_of_reset hissue]
  refine ⟨_, rfl, rfl, rfl, rfl, rfl, rfl, rfl, rfl, rfl, fun a ha => ?_, performReset_buf_wf rfl⟩
  rw [Memory.read_writeList, if_pos (by simpa using ha)]
  simp [ha]

end Sys2Proof
end

section
/-! PROOF. The counters against the parser (42_sync_put.md R146, 43_body_decode_msg.md R170): the counters reach zero
after exactly the object bytes the parser accepts. -/

namespace Sys2Proof

namespace Machine

theorem countersAfter_append (a c : List Byte) (objs bytes : Nat) :
    countersAfter (a ++ c) objs bytes = (countersAfter a objs bytes).bind fun p => countersAfter c p.1 p.2 := by
  induction a generalizing objs bytes with
  | nil => simp [countersAfter]
  | cons b a ih =>
    cases bytes with
    | succ bytes => exact ih objs bytes
    | zero =>
      cases objs with
      | zero => rfl
      | succ objs =>
        rw [List.cons_append, countersAfter, countersAfter]
        cases decodeTag b with
        | none => rfl
        | some t => exact ih objs (payLen t)

/-- A payload of the length the counter says is passed over (R146). -/
theorem countersAfter_payload (payload rest : List Byte) (objs : Nat) :
    countersAfter (payload ++ rest) objs payload.length = countersAfter rest objs 0 := by
  induction payload with
  | nil => rfl
  | cons b payload ih => exact ih

theorem countersAfter_payload_done {bs : List Byte} {objs bytes : Nat}
    (h : countersAfter bs objs bytes = some (0, 0)) :
    bytes ≤ bs.length ∧ countersAfter (bs.drop bytes) objs 0 = some (0, 0) := by
  induction bytes generalizing bs with
  | zero => exact ⟨Nat.zero_le _, h⟩
  | succ bytes ih =>
    cases bs with
    | nil => simp [countersAfter] at h
    | cons b bs =>
      obtain ⟨hlen, hrest⟩ := ih h
      exact ⟨Nat.succ_le_succ hlen, hrest⟩

/-- With no object to come any byte is surplus. -/
theorem countersAfter_zero_done {bs : List Byte} {p : Nat × Nat} (h : countersAfter bs 0 0 = some p) : bs = [] := by
  cases bs with
  | nil => rfl
  | cons b bs => cases h

theorem countersAfter_tag_done {b : Byte} {bs : List Byte} {objs : Nat} {p : Nat × Nat}
    (h : countersAfter (b :: bs) objs 0 = some p) :
    ∃ n t, objs = n + 1 ∧ decodeTag b = some t ∧ countersAfter bs n (payLen t) = some p := by
  cases objs with
  | zero => cases h
  | succ n =>
    obtain ⟨t, htag, h⟩ := Option.bind_eq_some_iff.1 h
    exact ⟨n, t, rfl, htag, h⟩

/-- Object bytes that bring the counters to zero parse. -/
theorem parseObjects_of_countersAfter {n : Nat} {bs : List Byte} (h : countersAfter bs n 0 = some (0, 0)) (k : Nat)
    (m : Message) : ∃ m', parseObjects n k bs m = (m', true) := by
  induction n generalizing bs k m with
  | zero =>
    obtain rfl := countersAfter_zero_done h
    exact ⟨m, rfl⟩
  | succ n ih =>
    cases bs with
    | nil => simp [countersAfter] at h
    | cons b bs =>
      obtain ⟨n', t, hn, htag, h⟩ := countersAfter_tag_done h
      obtain rfl := Nat.succ.inj hn
      obtain ⟨hlen, hrest⟩ := countersAfter_payload_done h
      obtain ⟨m', hm'⟩ := ih hrest (k + 1) (m.setSlot k (decodeObject t (bs.take (payLen t))))
      refine ⟨m', ?_⟩
      rw [← hm', ← parseObjects_object n k t _ _ m (List.length_take_of_le hlen), List.cons_append,
        List.take_append_drop, byte_of_decodeTag htag]

theorem countersAfter_encoded {os : List Slot} (h : ∀ o ∈ os, o.legal = true) :
    countersAfter (os.flatMap encodeObject) os.length 0 = some (0, 0) := by
  induction os with
  | nil => rfl
  | cons o os ih =>
    rw [List.forall_mem_cons] at h
    obtain ⟨t, payload, hlen, henc, -⟩ := object_of_legal h.1
    rw [List.flatMap_cons, henc, List.cons_append, List.length_cons, countersAfter, decodeTag_byte, Option.bind_some,
      ← hlen, countersAfter_payload, ih h.2]

/-- The counters after a frame's body (R145, R146). -/
def bodyCounters (body : List Byte) : Option (Nat × Nat) :=
  match body with
  | [] => none
  | b :: objects =>
    if 0 ≤ countOf b ∧ countOf b ≤ 15 then countersAfter objects (countOf b).toNat 0 else none

theorem bodyCounters_append {a : List Byte} (c : List Byte) (h : a ≠ []) :
    bodyCounters (a ++ c) = (bodyCounters a).bind fun p => countersAfter c p.1 p.2 := by
  cases a with
  | nil => exact absurd rfl h
  | cons b objects =>
    rw [List.cons_append, bodyCounters, bodyCounters]
    split
    · exact countersAfter_append _ _ _ _
    · rfl

theorem bodyCounters_frameBody {m : List Slot} (h : legalMessage m = true) :
    bodyCounters (frameBody m) = some (0, 0) := by
  obtain ⟨hlen, hlegal⟩ := (legalMessage_iff m).1 h
  have hcount := countOf_countByte_ofNat hlen
  rw [frameBody, bodyCounters, if_pos (by omega), hcount, Int.toNat_natCast, countersAfter_encoded hlegal]

/-- A frame whose body brings the counters to zero parses. -/
theorem bodyParse_of_bodyCounters {frame : List Byte} (h : bodyCounters (frame.drop 6) = some (0, 0)) (m : Message) :
    ∃ m', bodyParse frame m = (m', true) := by
  cases hbody : frame.drop 6 with
  | nil => rw [hbody] at h; cases h
  | cons b objects =>
    rw [hbody, bodyCounters] at h
    split at h
    · next hcount =>
      rw [bodyParse_eq m hbody hcount.1 hcount.2]
      exact parseObjects_of_countersAfter h 0 _
    · cases h

end Machine
end Sys2Proof
end

section
/-! PROOF. What the registers say of a candidate (10_state.md R24 to R26, R36, 42_sync_put.md R142 to R149): the
bytes stored by an arm keep it, and a candidate whose counters reach zero is a frame if its CRCs agree. The
invariant is this with a canonical buffer and a legal staged message; a candidate needs neither. -/

namespace Sys2Proof

namespace Machine

/-! ## A candidate -/

/-- The counters from offset 7 on: what the stored body bytes imply (R145, R146). -/
structure Counted (s : State) : Prop where
  range : -144 ≤ s.remainingObjects.toInt ∧ s.remainingObjects.toInt ≤ 15
  negative : s.remainingObjects.toInt < 0 →
    s.len.toNat = 7 ∧ s.remainingObjects.toInt = s.declared ∧ s.remainingBytes = 0
  parsed : 0 ≤ s.remainingObjects.toInt → bodyCounters (Memory.slice s.buf 6 (s.len.toNat - 6)) =
    some (s.remainingObjects.toNat, s.remainingBytes.toNat)
  bound : 0 ≤ s.remainingObjects.toInt →
    ((s.len.toNat - 7 + s.remainingBytes.toNat : Nat) : Int) ≤ 16 * (s.declared - s.remainingObjects.toInt)

/-- The registers are those of the stored bytes, whether the candidate is complete or not. -/
structure Candidate (s : State) : Prop where
  len_le : s.len.toNat ≤ 247
  header0 : 1 ≤ s.len.toNat → Memory.read s.buf 0 = Config.hdr0
  header1 : 2 ≤ s.len.toNat → Memory.read s.buf 1 = Config.hdr1
  crc_header : 2 ≤ s.len.toNat → s.crcHeader = beUnpack 32 (Memory.slice s.buf 2 (min s.len.toNat 6 - 2))
  crc_body : 2 ≤ s.len.toNat → s.crcBody = crc32b 0 (Memory.slice s.buf 6 (s.len.toNat - 6))
  counted : 7 ≤ s.len.toNat → Counted s

/-- More bytes are to come (R147). -/
def Pending (s : State) : Prop := 7 ≤ s.len.toNat → ¬ (s.remainingObjects = 0 ∧ s.remainingBytes = 0)

theorem candidate_of_idle {s : State} (h : s.len = 0) : Candidate s ∧ Pending s := by
  have hlen : s.len.toNat = 0 := by rw [h]; rfl
  refine ⟨⟨by omega, ?_, ?_, ?_, ?_, ?_⟩, ?_⟩
  all_goals
    intro hpos
    omega

theorem bodyCounters_cons_eq_some_iff {b : Byte} {objects : List Byte} {p : Nat × Nat} :
    bodyCounters (b :: objects) = some p ↔
      0 ≤ countOf b ∧ countOf b ≤ 15 ∧ countersAfter objects (countOf b).toNat 0 = some p := by
  rw [bodyCounters]
  split
  · next h => simp [h]
  · next h => simp only [reduceCtorEq, false_iff]; exact fun ⟨hlo, hhi, _⟩ => h ⟨hlo, hhi⟩

theorem slice_body_eq {s : State} (h : 7 ≤ s.len.toNat) :
    Memory.slice s.buf 6 (s.len.toNat - 6) = Memory.read s.buf 6 :: Memory.slice s.buf 7 (s.len.toNat - 7) := by
  rw [show s.len.toNat - 6 = s.len.toNat - 7 + 1 by omega, Memory.slice_cons]

theorem bodyCounters_slice_eq_some_iff {s : State} (h : 7 ≤ s.len.toNat) {p : Nat × Nat} :
    bodyCounters (Memory.slice s.buf 6 (s.len.toNat - 6)) = some p ↔
      0 ≤ s.declared ∧ s.declared ≤ 15 ∧
        countersAfter (Memory.slice s.buf 7 (s.len.toNat - 7)) s.declared.toNat 0 = some p := by
  rw [slice_body_eq h]
  exact bodyCounters_cons_eq_some_iff

theorem toNat_eq_toInt_of_nonneg {w : Nat} {x : BitVec w} (h : 0 ≤ x.toInt) : (x.toNat : Int) = x.toInt := by
  have hlt := x.isLt
  rw [BitVec.toInt_eq_toNat_cond] at h ⊢
  split at h <;> omega

/-- The counters a stored body comes to are the registers; a negative count comes to none. -/
theorem Counted.eq_of_bodyCounters {s : State} (hcount : Counted s) (hlen : 7 ≤ s.len.toNat) {p : Nat × Nat}
    (h : bodyCounters (Memory.slice s.buf 6 (s.len.toNat - 6)) = some p) :
    0 ≤ s.remainingObjects.toInt ∧ p = (s.remainingObjects.toNat, s.remainingBytes.toNat) := by
  have hnonneg : 0 ≤ s.remainingObjects.toInt := by
    by_contra hneg
    obtain ⟨-, hdeclared, -⟩ := hcount.negative (by omega)
    obtain ⟨hlo, -⟩ := (bodyCounters_slice_eq_some_iff hlen).1 h
    omega
  exact ⟨hnonneg, Option.some.inj (h.symm.trans (hcount.parsed hnonneg))⟩

/-- A candidate with bytes to come leaves room for one more (R36 (a)): the bound of R36 (d) says so. -/
theorem Candidate.len_le_of_pending {s : State} (hc : Candidate s) (hp : Pending s) : s.len.toNat ≤ 246 := by
  by_contra hover
  have hlen : 7 ≤ s.len.toNat := by omega
  have hcount := hc.counted hlen
  have hobjects : 0 ≤ s.remainingObjects.toInt := by
    by_contra hneg
    have := (hcount.negative (by omega)).1
    omega
  obtain ⟨-, hdeclared, -⟩ := (bodyCounters_slice_eq_some_iff hlen).1 (hcount.parsed hobjects)
  have hbound := hcount.bound hobjects
  have hzero : s.remainingObjects.toInt = 0 := by omega
  have hbytes : s.remainingBytes.toNat = 0 := by omega
  exact hp hlen ⟨BitVec.eq_of_toInt_eq hzero, BitVec.eq_of_toNat_eq hbytes⟩

/-- The invariant, with the candidate apart from the canonical buffer and the staged message. -/
theorem inv_iff (s : State) : Inv s ↔
    Memory.wf s.buf ∧ (Candidate s ∧ Pending s) ∧ (s.msgValid = true → legalMessage s.msg.objects = true) := by
  constructor
  · intro h
    refine ⟨h.buf_wf, ⟨⟨h.len_le.trans (by decide), h.header0, h.header1, h.crc_header, h.crc_body, fun hlen => ?_⟩,
      fun hlen => (h.counters hlen).2.2⟩, h.staged⟩
    obtain ⟨hlo, hhi, -⟩ := h.counters hlen
    exact ⟨⟨hlo, hhi⟩, h.negative hlen,
      fun hobjects => (bodyCounters_slice_eq_some_iff hlen).2 (h.parsed hlen hobjects), h.bound hlen⟩
  · rintro ⟨hwf, ⟨hc, hp⟩, hstaged⟩
    exact {
      buf_wf := hwf
      len_le := hc.len_le_of_pending hp
      header0 := hc.header0
      header1 := hc.header1
      crc_header := hc.crc_header
      crc_body := hc.crc_body
      counters := fun hlen => ⟨(hc.counted hlen).range.1, (hc.counted hlen).range.2, hp hlen⟩
      negative := fun hlen => (hc.counted hlen).negative
      parsed := fun hlen hobjects => (bodyCounters_slice_eq_some_iff hlen).1 ((hc.counted hlen).parsed hobjects)
      bound := fun hlen => (hc.counted hlen).bound
      staged := hstaged }

/-! ## The arm that stores (R142 to R146) -/

/-- The byte is the one its place takes, and the arm leaves these registers. -/
inductive Stores (b : Byte) (s : State) : State → Prop
  | hdr0 (hlen : s.len.toNat = 0) (hb : b = Config.hdr0) : Stores b s s
  | hdr1 (hlen : s.len.toNat = 1) (hb : b = Config.hdr1) : Stores b s { s with crcHeader := 0, crcBody := 0 }
  | crcField (hlo : 2 ≤ s.len.toNat) (hhi : s.len.toNat ≤ 5) :
    Stores b s { s with crcHeader := (s.crcHeader <<< 8) ||| b.setWidth 32 }
  | count (hlen : s.len.toNat = 6) (hb : b.toNat < 0xA0) :
    Stores b s { s with
      remainingObjects := BitVec.ofInt 9 (countOf b), remainingBytes := 0, crcBody := crcFeed s.crcBody b }
  | payload (hlen : 7 ≤ s.len.toNat) (hbytes : s.remainingBytes ≠ 0) :
    Stores b s { s with remainingBytes := s.remainingBytes - 1, crcBody := crcFeed s.crcBody b }
  | tag (t : Tag) (hlen : 7 ≤ s.len.toNat) (hbytes : s.remainingBytes = 0) (hobjects : 0 < s.remainingObjects.toInt)
      (htag : decodeTag b = some t) :
    Stores b s { s with
      remainingObjects := s.remainingObjects - 1
      remainingBytes := BitVec.ofNat 4 (payLen t)
      crcBody := crcFeed s.crcBody b }

theorem dispatchArm_of_stores {b : Byte} {s u : State} (h : Stores b s u) : dispatchArm b s = .store u := by
  cases h with
  | hdr0 hlen hb => exact (dispatchArm_hdr0 hlen).trans (if_pos hb)
  | hdr1 hlen hb => exact (dispatchArm_hdr1 hlen).trans (if_pos hb)
  | crcField hlo hhi => exact dispatchArm_crcField hlo hhi
  | count hlen hb => exact (dispatchArm_count hlen).trans (armCount_of_lt s hb)
  | payload hlen hbytes => exact (dispatchArm_body hlen).trans (armBody_of_payload b hbytes)
  | tag t hlen hbytes hobjects htag => exact (dispatchArm_body hlen).trans (armBody_of_tag hbytes hobjects htag)

/-- An arm stores the byte, or raises a reject of its own; cause `BODY` is never an arm's. -/
theorem stores_or_raises (b : Byte) (s : State) :
    (∃ u, Stores b s u) ∨ ∃ cause u, cause ≠ .body ∧ dispatchArm b s = .raise cause u := by
  obtain h | h | ⟨hlo, hhi⟩ | h | h : s.len.toNat = 0 ∨ s.len.toNat = 1 ∨
      (2 ≤ s.len.toNat ∧ s.len.toNat ≤ 5) ∨ s.len.toNat = 6 ∨ 7 ≤ s.len.toNat := by omega
  · by_cases hb : b = Config.hdr0
    · exact .inl ⟨_, .hdr0 h hb⟩
    · exact .inr ⟨.hdr0, _, by decide, (dispatchArm_hdr0 h).trans (armHdr0_of_ne s hb)⟩
  · by_cases hb : b = Config.hdr1
    · exact .inl ⟨_, .hdr1 h hb⟩
    · exact .inr ⟨.hdr1, _, by decide, (dispatchArm_hdr1 h).trans (armHdr1_of_ne s hb)⟩
  · exact .inl ⟨_, .crcField hlo hhi⟩
  · by_cases hb : b.toNat < 0xA0
    · exact .inl ⟨_, .count h hb⟩
    · exact .inr ⟨.count, _, by decide, (dispatchArm_count h).trans (armCount_of_ge s (Nat.le_of_not_lt hb))⟩
  · by_cases hbytes : s.remainingBytes = 0
    · by_cases hobjects : 0 < s.remainingObjects.toInt
      · cases htag : decodeTag b with
        | some t => exact .inl ⟨_, .tag t h hbytes hobjects htag⟩
        | none =>
          exact .inr ⟨.tag, _, by decide, (dispatchArm_body h).trans (armBody_of_unknownTag hbytes hobjects htag)⟩
      · exact .inr ⟨.surplus, _, by decide,
          (dispatchArm_body h).trans (armBody_of_surplus b hbytes (Int.not_lt.1 hobjects))⟩
    · exact .inl ⟨_, .payload h hbytes⟩

theorem Stores.frame {b : Byte} {s u : State} (h : Stores b s u) : ArmFrame s u := by
  have hframe := dispatchArm_frame b s
  rwa [dispatchArm_of_stores h] at hframe

section
variable {b : Byte} {s u : State} (h : Stores b s u) (hlt : s.len.toNat ≤ 246)
include h

theorem Stores.buf_stored : (stored b u).buf = Memory.write s.buf s.len.toNat b := by
  rw [stored, h.frame.buf, h.frame.len]

include hlt in
theorem Stores.len_stored : (stored b u).len.toNat = s.len.toNat + 1 :=
  stored_len_of_store (by omega) (dispatchArm_of_stores h)

include hlt in
/-- A slice up to the end of the candidate ends with the byte just stored. -/
theorem Stores.slice_stored {a : Nat} (ha : a ≤ s.len.toNat) :
    Memory.slice (stored b u).buf a ((stored b u).len.toNat - a) =
      Memory.slice s.buf a (s.len.toNat - a) ++ [b] := by
  have hlast := Memory.slice_write_last s.buf a (s.len.toNat - a) b
  rw [show a + (s.len.toNat - a) = s.len.toNat by omega] at hlast
  rw [h.buf_stored, h.len_stored hlt, ← hlast, show s.len.toNat + 1 - a = s.len.toNat - a + 1 by omega]

include hlt in
theorem Stores.slice_stored_zero :
    Memory.slice (stored b u).buf 0 (stored b u).len.toNat = Memory.slice s.buf 0 s.len.toNat ++ [b] :=
  h.slice_stored hlt (Nat.zero_le _)

theorem Stores.read_stored {a : Nat} (ha : a < s.len.toNat) :
    Memory.read (stored b u).buf a = Memory.read s.buf a := by
  rw [h.buf_stored, Memory.read_write_ne _ _ (by omega)]

theorem Stores.read_stored_last : Memory.read (stored b u).buf s.len.toNat = b := by
  rw [h.buf_stored, Memory.read_write_same]

end

/-! ## A stored byte keeps the candidate -/

theorem toInt_sub_one {x : BitVec 9} (h : 0 < x.toInt) : (x - 1).toInt = x.toInt - 1 := by
  have hlt := BitVec.toInt_lt (x := x)
  rw [BitVec.toInt_sub]
  exact Int.bmod_eq_of_le (by simp; omega) (by simp; omega)

theorem toNat_sub_one {w : Nat} {x : BitVec (w + 1)} (h : x ≠ 0) : (x - 1).toNat = x.toNat - 1 := by
  have hpos : 1 ≤ x.toNat := Nat.pos_of_ne_zero (BitVec.toNat_ne.1 h)
  have hone : (1 : BitVec (w + 1)).toNat = 1 := by simp
  rw [BitVec.toNat_sub_of_le (by rwa [BitVec.le_def, hone]), hone]

theorem Stores.declared_stored {b : Byte} {s u : State} (h : Stores b s u) (hlen : 7 ≤ s.len.toNat) :
    (stored b u).declared = s.declared := by
  rw [State.declared, h.read_stored (by omega), State.declared]

theorem Stores.count_counters {b : Byte} {s u : State} (h : Stores b s u) (hlen : s.len.toNat = 6) :
    (stored b u).remainingObjects.toInt = countOf b ∧ (stored b u).remainingBytes = 0 ∧ b.toNat < 0xA0 := by
  cases h with
  | count _ hb => exact ⟨toInt_ofInt_countOf b, rfl, hb⟩
  | hdr0 | hdr1 | crcField | payload | tag => omega

/-- The counters after the count byte (R145). -/
theorem counted_of_count {b : Byte} {s u : State} (h : Stores b s u) (hlen : s.len.toNat = 6) :
    Counted (stored b u) := by
  have hlen' := h.len_stored (by omega)
  have hdeclared : (stored b u).declared = countOf b := by
    rw [State.declared, ← hlen, h.read_stored_last]
  obtain ⟨hobjects, hbytes, hb⟩ := h.count_counters hlen
  have hcount := countOf_eq b
  refine ⟨by omega, fun _ => ⟨by omega, by rw [hobjects, hdeclared], hbytes⟩, fun hnonneg => ?_, fun _ => ?_⟩
  · have hnat : (countOf b).toNat = (stored b u).remainingObjects.toNat := by
      have := toNat_eq_toInt_of_nonneg hnonneg
      omega
    rw [h.slice_stored (by omega) (by omega), hlen, Nat.sub_self, Memory.slice_zero, List.nil_append,
      bodyCounters_cons_eq_some_iff, hnat, hbytes]
    exact ⟨by omega, by omega, rfl⟩
  · rw [hobjects, hdeclared, hlen', hlen, hbytes, sub_self]
    decide

/-- The counters after a payload byte or a tag (R146). -/
theorem counted_of_body {b : Byte} {s u : State} (h : Stores b s u) (hlen : 7 ≤ s.len.toNat)
    (hlt : s.len.toNat ≤ 246) (hcount : Counted s) : Counted (stored b u) := by
  have hlen' := h.len_stored hlt
  have hbody := h.slice_stored (a := 6) hlt (by omega)
  have hdeclared := h.declared_stored hlen
  have hstart : Memory.slice s.buf 6 (s.len.toNat - 6) ≠ [] := by rw [slice_body_eq hlen]; exact List.cons_ne_nil _ _
  cases h with
  | payload _ hbytes =>
    have hobjects : 0 ≤ s.remainingObjects.toInt := Int.not_lt.1 fun hneg => hbytes (hcount.negative hneg).2.2
    have hpos : s.remainingBytes.toNat ≠ 0 := BitVec.toNat_ne.1 hbytes
    have hfewer : (s.remainingBytes - 1).toNat = s.remainingBytes.toNat - 1 := toNat_sub_one hbytes
    refine ⟨hcount.range, fun hneg => absurd hobjects (Int.not_le.2 hneg), fun _ => ?_, fun _ => ?_⟩
    · rw [hbody, bodyCounters_append _ hstart, hcount.parsed hobjects]
      change countersAfter [b] s.remainingObjects.toNat s.remainingBytes.toNat =
        some (s.remainingObjects.toNat, (s.remainingBytes - 1).toNat)
      rw [hfewer, show s.remainingBytes.toNat = s.remainingBytes.toNat - 1 + 1 by omega]
      rfl
    · have hbound := hcount.bound hobjects
      rw [hlen', hdeclared]
      change ((s.len.toNat + 1 - 7 + (s.remainingBytes - 1).toNat : Nat) : Int) ≤
        16 * (s.declared - s.remainingObjects.toInt)
      omega
  | tag t _ hbytes hobjects htag =>
    have hfewer : (s.remainingObjects - 1).toInt = s.remainingObjects.toInt - 1 := toInt_sub_one hobjects
    have hne : s.remainingObjects ≠ 0 := by
      intro hzero
      rw [hzero] at hobjects
      exact absurd hobjects (by decide)
    have hpay : (BitVec.ofNat 4 (payLen t)).toNat = payLen t := Nat.mod_eq_of_lt (payLen_lt t)
    have hrange := hcount.range
    refine ⟨?_, fun hneg => ?_, fun _ => ?_, fun _ => ?_⟩
    · change -144 ≤ (s.remainingObjects - 1).toInt ∧ (s.remainingObjects - 1).toInt ≤ 15
      omega
    · change (s.remainingObjects - 1).toInt < 0 at hneg
      omega
    · rw [hbody, bodyCounters_append _ hstart, hcount.parsed hobjects.le, hbytes]
      change countersAfter [b] s.remainingObjects.toNat 0 =
        some ((s.remainingObjects - 1).toNat, (BitVec.ofNat 4 (payLen t)).toNat)
      have hpos : s.remainingObjects.toNat ≠ 0 := BitVec.toNat_ne.1 hne
      rw [hpay, toNat_sub_one hne, show s.remainingObjects.toNat = s.remainingObjects.toNat - 1 + 1 by omega,
        countersAfter, htag]
      rfl
    · have hbound := hcount.bound hobjects.le
      have hle := payLen_lt t
      rw [hbytes] at hbound
      rw [hlen', hdeclared]
      change ((s.len.toNat + 1 - 7 + (BitVec.ofNat 4 (payLen t)).toNat : Nat) : Int) ≤
        16 * (s.declared - (s.remainingObjects - 1).toInt)
      change ((s.len.toNat - 7 + 0 : Nat) : Int) ≤ 16 * (s.declared - s.remainingObjects.toInt) at hbound
      omega
  | hdr0 | hdr1 | crcField | count => omega

/-- The CRC field after a stored byte (R143, R144). -/
theorem crcHeader_stored {b : Byte} {s u : State} (h : Stores b s u) (hlt : s.len.toNat ≤ 246) (hc : Candidate s)
    (hlen : 1 ≤ s.len.toNat) :
    (stored b u).crcHeader =
      beUnpack 32 (Memory.slice (stored b u).buf 2 (min (stored b u).len.toNat 6 - 2)) := by
  have hlen' := h.len_stored hlt
  by_cases hfield : s.len.toNat ≤ 5
  · rw [show min (stored b u).len.toNat 6 = (stored b u).len.toNat by omega]
    cases h with
    | hdr1 hone =>
      rw [hlen', hone]
      rfl
    | crcField hlo hhi =>
      have hslice := (Stores.crcField (b := b) hlo hhi).slice_stored (a := 2) hlt hlo
      have hheader := hc.crc_header hlo
      rw [show min s.len.toNat 6 = s.len.toNat by omega] at hheader
      rw [hslice, beUnpack_concat, ← hheader]
      rfl
    | hdr0 | count | payload | tag => omega
  · have hslice : Memory.slice (stored b u).buf 2 4 = Memory.slice s.buf 2 4 :=
      Memory.slice_congr fun x _ hx => h.read_stored (by omega)
    have hheader := hc.crc_header (by omega)
    rw [show min s.len.toNat 6 - 2 = 4 by omega] at hheader
    rw [show min (stored b u).len.toNat 6 - 2 = 4 by omega, hslice, ← hheader]
    cases h with
    | count | payload | tag => rfl
    | hdr0 | hdr1 | crcField => omega

/-- The CRC of the body after a stored byte (R143, R145, R146). -/
theorem crcBody_stored {b : Byte} {s u : State} (h : Stores b s u) (hlt : s.len.toNat ≤ 246) (hc : Candidate s)
    (hlen : 1 ≤ s.len.toNat) :
    (stored b u).crcBody = crc32b 0 (Memory.slice (stored b u).buf 6 ((stored b u).len.toNat - 6)) := by
  have hlen' := h.len_stored hlt
  by_cases hfield : s.len.toNat ≤ 5
  · rw [show (stored b u).len.toNat - 6 = 0 by omega, Memory.slice_zero, crc32b_nil]
    cases h with
    | hdr1 => rfl
    | crcField hlo hhi =>
      have hbody := hc.crc_body hlo
      rwa [show s.len.toNat - 6 = 0 by omega, Memory.slice_zero, crc32b_nil] at hbody
    | hdr0 | count | payload | tag => omega
  · rw [h.slice_stored hlt (by omega), crc32b_concat, ← hc.crc_body (by omega)]
    cases h with
    | count | payload | tag => rfl
    | hdr0 | hdr1 | crcField => omega

/-- The header bytes of a candidate are where they were stored (R142, R143). -/
theorem header_stored {b : Byte} {s u : State} (h : Stores b s u) (hc : Candidate s) :
    Memory.read (stored b u).buf 0 = Config.hdr0 ∧
      (1 ≤ s.len.toNat → Memory.read (stored b u).buf 1 = Config.hdr1) := by
  constructor
  · by_cases hlen : s.len.toNat = 0
    · rw [← hlen, h.read_stored_last]
      cases h with
      | hdr0 _ hb => exact hb
      | hdr1 | crcField | count | payload | tag => omega
    · rw [h.read_stored (by omega), hc.header0 (by omega)]
  · intro hpos
    by_cases hlen : s.len.toNat = 1
    · rw [← hlen, h.read_stored_last]
      cases h with
      | hdr1 _ hb => exact hb
      | hdr0 | crcField | count | payload | tag => omega
    · rw [h.read_stored (by omega), hc.header1 (by omega)]

theorem candidate_stored {b : Byte} {s u : State} (hc : Candidate s) (hlt : s.len.toNat ≤ 246) (h : Stores b s u) :
    Candidate (stored b u) := by
  have hlen' := h.len_stored hlt
  obtain ⟨h0, h1⟩ := header_stored h hc
  refine ⟨by omega, fun _ => h0, fun hlen => h1 (by omega), fun hlen => crcHeader_stored h hlt hc (by omega),
    fun hlen => crcBody_stored h hlt hc (by omega), fun hlen => ?_⟩
  obtain hsix | hseven : s.len.toNat = 6 ∨ 7 ≤ s.len.toNat := by omega
  · exact counted_of_count h hsix
  · exact counted_of_body h hseven hlt (hc.counted hseven)

end Machine
end Sys2Proof
end

section
/-! PROOF. How a byte given to a candidate ends (42_sync_put.md R147 to R152): it is rejected, the candidate grows by
it, or the candidate is a frame, staged. -/

namespace Sys2Proof

namespace Machine

theorem afterStoreNext_of_pending {g : State} (h : Pending g) : afterStoreNext g = growing g := by
  by_cases hlen : 7 ≤ g.len.toNat
  · rw [afterStoreNext_of_ge hlen, afterBodyByte_of_not_zero (h hlen)]
  · exact afterStoreNext_of_lt (Nat.not_le.1 hlen)

theorem afterStoreNext_of_complete {g : State} (h : ¬ Pending g) :
    7 ≤ g.len.toNat ∧ g.remainingObjects = 0 ∧ g.remainingBytes = 0 ∧ afterStoreNext g = completed g := by
  obtain ⟨hlen, hzero⟩ := Classical.not_imp.1 h
  obtain ⟨hobjects, hbytes⟩ := not_not.1 hzero
  exact ⟨hlen, hobjects, hbytes, by rw [afterStoreNext_of_ge hlen, afterBodyByte, if_pos ⟨hobjects, hbytes⟩]⟩

theorem syncNext_of_stores {b : Byte} {s u : State} (h : Stores b s u) (hlt : s.len.toNat ≤ 246) :
    syncNext b s = afterStoreNext (stored b u) := by
  rw [syncNext, overSizeGuard_of_lt (by omega), dispatchArm_of_stores h]

theorem candidate_growing {g : State} (hc : Candidate g) (hp : Pending g) :
    Candidate (growing g) ∧ Pending (growing g) := by
  refine ⟨⟨hc.len_le, hc.header0, hc.header1, hc.crc_header, hc.crc_body, fun hlen => ?_⟩, hp⟩
  have hcount := hc.counted hlen
  exact ⟨hcount.range, hcount.negative, hcount.parsed, hcount.bound⟩

/-! ## A complete candidate is a frame if its CRCs agree (R147 to R149) -/

theorem Memory.slice_take (m : Memory) {a n k : Nat} (h : k ≤ n) :
    (Memory.slice m a n).take k = Memory.slice m a k := by
  rw [← Nat.add_sub_cancel' h, Memory.slice_append, List.take_left' (Memory.slice_length m a k)]

theorem Memory.slice_getD (m : Memory) (a : Nat) {n k : Nat} (h : k < n) :
    (Memory.slice m a n).getD k 0 = Memory.read m (a + k) := by
  simp [Memory.slice, h]

/-- The checks of `FRAME_DECODE` on the stored bytes, from what the registers say (R203). -/
theorem frameDecode_slice_iff {g : State} (hc : Candidate g) (hlen : 7 ≤ g.len.toNat) {m : List Slot} :
    frameDecode (Memory.slice g.buf 0 g.len.toNat) = some m ↔
      g.crcHeader = g.crcBody ∧ legalMessage m = true ∧
        Memory.slice g.buf 6 (g.len.toNat - 6) = frameBody m := by
  have hle := hc.len_le
  have hfield := hc.crc_header (by omega)
  rw [show min g.len.toNat 6 - 2 = 4 by omega] at hfield
  rw [frameDecode_eq_some_iff, Memory.slice_length, Memory.slice_getD _ _ (by omega), Memory.slice_getD _ _ (by omega),
    Memory.slice_drop, Memory.slice_drop, Memory.slice_take _ (by omega), ← hfield, ← hc.crc_body (by omega)]
  have h0 : Memory.read g.buf (0 + 0) = Config.hdr0 := hc.header0 (by omega)
  have h1 : Memory.read g.buf (0 + 1) = Config.hdr1 := hc.header1 (by omega)
  simp only [h0, h1, hlen, hle, and_self, true_and, Nat.zero_add]

theorem bodyCounters_of_complete {g : State} (hc : Candidate g) (hlen : 7 ≤ g.len.toNat)
    (hobjects : g.remainingObjects = 0) (hbytes : g.remainingBytes = 0) :
    bodyCounters (Memory.slice g.buf 6 (g.len.toNat - 6)) = some (0, 0) := by
  have hparsed := (hc.counted hlen).parsed (by rw [hobjects]; decide)
  rwa [hobjects, hbytes] at hparsed

/-- The body parser does not fail on a complete candidate (R149). -/
theorem bodyParse_of_complete {g : State} (hc : Candidate g) (hlen : 7 ≤ g.len.toNat)
    (hobjects : g.remainingObjects = 0) (hbytes : g.remainingBytes = 0) (m : Message) :
    ∃ m', bodyParse (Memory.slice g.buf 0 g.len.toNat) m = (m', true) :=
  bodyParse_of_bodyCounters (by
    rw [Memory.slice_drop, Nat.zero_add]
    exact bodyCounters_of_complete hc hlen hobjects hbytes) m

/-! ## The three ends -/

/-- How a byte given to a candidate ends; the bytes of the candidate are those stored, and the byte. -/
inductive PutEnd (b : Byte) (s t : State) : Prop
  | rejected (cause : RejectCause) (hcause : cause ≠ .body) (hlen : t.len = 0) (hvalid : t.msgValid = false)
      (hreport : t.report = ⟨false, some cause⟩)
  | grows (hlen : t.len.toNat = s.len.toNat + 1) (hvalid : t.msgValid = false) (hreport : t.report = ⟨false, none⟩)
      (hbytes : Memory.slice t.buf 0 t.len.toNat = Memory.slice s.buf 0 s.len.toNat ++ [b])
      (hc : Candidate t ∧ Pending t)
  | ready (hlen : t.len = 0) (hvalid : t.msgValid = true) (hreport : t.report = ⟨true, none⟩)
      (hframe : frameDecode (Memory.slice s.buf 0 s.len.toNat ++ [b]) = some t.msg.objects)

theorem completed_of_crc_ne {g : State} (h : g.crcHeader ≠ g.crcBody) : completed g = rejected g .crc := if_pos h

theorem completed_of_crc_eq {g : State} {m : Message} (h : g.crcHeader = g.crcBody)
    (hparse : bodyParse (Memory.slice g.buf 0 g.len.toNat) g.msg = (m, true)) :
    completed g =
      { g with len := 0, msg := m, msgValid := true, result := some ⟨0, true⟩, ghostReject := none } := by
  rw [completed, if_neg (not_not_intro h), hparse]

theorem putEnd_syncNext (b : Byte) {s : State} (hc : Candidate s) (hp : Pending s) : PutEnd b s (syncNext b s) := by
  have hlt := hc.len_le_of_pending hp
  obtain ⟨u, hstores⟩ | ⟨cause, u, hcause, harm⟩ := stores_or_raises b s
  · have hcg := candidate_stored hc hlt hstores
    have hbytes := hstores.slice_stored_zero hlt
    rw [syncNext_of_stores hstores hlt]
    by_cases hpending : Pending (stored b u)
    · rw [afterStoreNext_of_pending hpending]
      exact .grows (hstores.len_stored hlt) rfl rfl hbytes (candidate_growing hcg hpending)
    · obtain ⟨hlen, hobjects, hzero, hnext⟩ := afterStoreNext_of_complete hpending
      rw [hnext]
      by_cases hcrc : (stored b u).crcHeader = (stored b u).crcBody
      · obtain ⟨m, hm⟩ := bodyParse_of_complete hcg hlen hobjects hzero (stored b u).msg
        obtain ⟨hlegal, hbody⟩ := bodyParse_ok_objects hm
        rw [Memory.slice_drop, Nat.zero_add] at hbody
        rw [completed_of_crc_eq hcrc hm]
        refine .ready rfl rfl rfl ?_
        rw [← hbytes]
        exact (frameDecode_slice_iff hcg hlen).2 ⟨hcrc, hlegal, hbody⟩
      · rw [completed_of_crc_ne hcrc]
        exact .rejected .crc (by decide) rfl rfl rfl
  · rw [syncNext, overSizeGuard_of_lt (by omega), harm]
    exact .rejected cause hcause rfl rfl rfl

/-- A byte keeps what the registers say of the candidate. -/
theorem candidate_syncNext (b : Byte) {s : State} (hc : Candidate s) (hp : Pending s) :
    Candidate (syncNext b s) ∧ Pending (syncNext b s) := by
  cases putEnd_syncNext b hc hp with
  | rejected _ _ hlen => exact candidate_of_idle hlen
  | grows _ _ _ _ hct => exact hct
  | ready hlen => exact candidate_of_idle hlen

end Machine
end Sys2Proof
end

section
/-! PROOF. The invariant between operations (10_state.md R36), and what follows from it: the bounds in every run, the
parser that never fails (R149), what a ready byte means (R151), and when a candidate ends (R154). -/

namespace Sys2Proof

namespace Machine

theorem inv_of_idle {s : State} (hlen : s.len = 0) (hwf : Memory.wf s.buf) (hvalid : s.msgValid = false) : Inv s :=
  (inv_iff s).2 ⟨hwf, candidate_of_idle hlen, fun h => by rw [hvalid] at h; cases h⟩

/-- The invariant speaks of the synchronizer's part alone. -/
theorem Inv.congr {s t : State} (h : s.syncPart = t.syncPart) (hs : Inv s) : Inv t := by
  obtain ⟨hlen, hobjects, hbytes, hheader, hbody, hbuf, hmsg, hvalid⟩ := (syncPart_eq_iff s t).1 h
  have hdeclared : s.declared = t.declared := by rw [State.declared, State.declared, hbuf]
  constructor
  all_goals simp only [← hlen, ← hobjects, ← hbytes, ← hheader, ← hbody, ← hbuf, ← hmsg, ← hvalid, ← hdeclared]
  exacts [hs.buf_wf, hs.len_le, hs.header0, hs.header1, hs.crc_header, hs.crc_body, hs.counters, hs.negative,
    hs.parsed, hs.bound, hs.staged]

/-- At most one byte of the buffer is written, and inside it (R58). -/
theorem syncNext_buf_wf {s : State} (b : Byte) (h : Memory.wf s.buf) : Memory.wf (syncNext b s).buf := by
  have hlt := overSizeGuard_lt s
  have harm := dispatchArm_frame b (overSizeGuard s)
  have hbuf := (syncNext_stepEnd b s).buf
  rw [harm.buf, harm.len, overSizeGuard_frame] at hbuf
  rcases hbuf with hbuf | hbuf
  · rwa [hbuf]
  · rw [hbuf]
    exact Memory.write_wf b h hlt

theorem inv_syncNext (b : Byte) {s : State} (h : Inv s) : Inv (syncNext b s) := by
  obtain ⟨hwf, ⟨hc, hp⟩, -⟩ := (inv_iff s).1 h
  refine (inv_iff _).2 ⟨syncNext_buf_wf b hwf, candidate_syncNext b hc hp, fun hvalid => ?_⟩
  cases putEnd_syncNext b hc hp with
  | rejected _ _ _ hinvalid | grows _ hinvalid =>
    rw [hinvalid] at hvalid
    cases hvalid
  | ready _ _ _ hframe => exact legalMessage_of_frameDecode hframe

theorem inv_exec {i : Instr} {s t : State} (hs : Inv s) (h : exec i s = .next t) : Inv t := by
  cases hput : putByte i with
  | some b =>
    cases h.symm.trans (exec_of_putByte hput s)
    exact inv_syncNext b hs
  | none => exact hs.congr (otherEnd_of_exec hput h).syncPart_eq.symm

theorem inv_performReset {junk : ResetJunk} {s t : State} (h : performReset junk s = .next t) : Inv t := by
  have hwf := performReset_buf_wf h
  cases h
  exact inv_of_idle rfl hwf rfl

theorem inv_step {s t : State} (hs : Inv s) (h : step s = .next t) : Inv t := by
  unfold step at h
  split at h
  · cases h
    exact hs
  · exact inv_performReset h
  · unfold runWord at h
    split at h
    · refine inv_exec (Inv.congr ?_ hs) h
      rfl
    · cases h

theorem core_run_succ (k : Nat) (s : Sys2Proof.core.State) :
    Sys2Proof.core.run (k + 1) s = andThen (step s) (Sys2Proof.core.run k) := by
  have hstep : Sys2Proof.core.step s = step s := rfl
  rw [Host.Core.run, ← hstep]
  cases Sys2Proof.core.step s <;> rfl

/-- Whatever the host presents from reset, in whatever order, every state of the run meets the invariant. -/
theorem inv_run {k : Nat} {s t : State} (hs : Inv s) (h : Sys2Proof.core.run k s = .next t) : Inv t := by
  induction k generalizing s with
  | zero =>
    cases h
    exact hs
  | succ k ih =>
    obtain ⟨u, hu, h⟩ := andThen_eq_next ((core_run_succ k s).symm.trans h)
    exact ih (inv_step hs hu) h

theorem bounds_of_inv {s : State} (h : Inv s) : Bounds s := by
  refine ⟨h.len_le, fun hlen => ?_⟩
  obtain ⟨hlo, hhi, hzero⟩ := h.counters hlen
  refine ⟨Nat.le_of_lt_succ s.remainingBytes.isLt, hlo, hhi, hzero, fun hobjects => ?_,
    fun hneg => (h.negative hlen hneg).1⟩
  have hbound := h.bound hlen hobjects
  omega

end Machine

open Machine

/-- Settles O39: at `len = 0` the invariant asks for a canonical buffer only, while no message is valid. -/
theorem resetMeetsTheInvariant : Obligations.ResetMeetsTheInvariant := by
  unfold Obligations.ResetMeetsTheInvariant
  refine ⟨inv_of_idle rfl reset_buf_wf rfl, fun s junk rest hissue => ?_⟩
  rw [step_of_reset hissue]
  exact ⟨_, rfl, inv_performReset (s := { s with issue := rest }) rfl⟩

/-- Settles O40: a byte keeps the candidate whichever way it ends, and nothing else writes the synchronizer's part
but a `Reset`, which leaves it idle. -/
theorem everyStepKeepsTheInvariant : Obligations.EveryStepKeepsTheInvariant := by
  unfold Obligations.EveryStepKeepsTheInvariant
  exact fun s t => inv_step

/-- Settles O41: by the invariant of every run from reset. -/
theorem boundsHoldInEveryRun : Obligations.BoundsHoldInEveryRun := by
  unfold Obligations.BoundsHoldInEveryRun
  intro events k t h
  have hreset : Inv { State.reset with issue := events } := inv_of_idle rfl reset_buf_wf rfl
  exact bounds_of_inv (inv_run hreset h)

/-- Settles O42: of the three ends of a byte none has the cause `BODY`. -/
theorem bodyParseNeverFailsUnderTheInvariant : Obligations.BodyParseNeverFailsUnderTheInvariant := by
  unfold Obligations.BodyParseNeverFailsUnderTheInvariant
  intro s b t hs h
  cases h.symm.trans (exec_syncPut b s)
  obtain ⟨-, ⟨hc, hp⟩, -⟩ := (inv_iff s).1 hs
  have hcauseOf : (syncNext b s).ghostReject = (syncNext b s).report.cause := rfl
  cases putEnd_syncNext b hc hp with
  | rejected cause hcause _ _ hreport =>
    rw [hcauseOf, hreport]
    exact fun hbody => hcause (Option.some.inj hbody)
  | grows _ _ hreport => rw [hcauseOf, hreport]; decide
  | ready _ _ hreport => rw [hcauseOf, hreport]; decide

/-- Settles O43: the one end of a byte with the flag set is a frame of the staged message. -/
theorem readyCandidateDecodes : Obligations.ReadyCandidateDecodes := by
  unfold Obligations.ReadyCandidateDecodes
  intro s b t hs h hflag
  cases h.symm.trans (exec_syncPut b s)
  obtain ⟨-, ⟨hc, hp⟩, -⟩ := (inv_iff s).1 hs
  cases putEnd_syncNext b hc hp with
  | rejected _ _ _ _ hreport => rw [hreport] at hflag; cases hflag
  | grows _ _ hreport => rw [hreport] at hflag; cases hflag
  | ready _ _ _ hframe => exact hframe

/-- Settles O45: at offset 2, inside the CRC field, every byte is stored. -/
theorem noByteIsRejectedEverywhere : Obligations.NoByteIsRejectedEverywhere := by
  unfold Obligations.NoByteIsRejectedEverywhere
  intro b
  have hreset : Inv State.reset := inv_of_idle rfl reset_buf_wf rfl
  have hlen : (syncNext 0xCE (syncNext 0x92 State.reset)).len.toNat = 2 := by decide
  exact ⟨_, _, inv_syncNext 0xCE (inv_syncNext 0x92 hreset),
    crcFieldByteIsShiftedIn _ b (by omega) (by omega), rfl⟩

end Sys2Proof
end

section
/-! PROOF. What a ready byte stages, from every state (43_body_decode_msg.md R181). -/

namespace Sys2Proof

namespace Machine

theorem kind_of_legal {o : Slot} (h : o.legal = true) : 1 ≤ o.kind.toNat ∧ o.kind.toNat ≤ 12 := by
  unfold Slot.legal at h
  split at h
  case h_13 => cases h
  all_goals omega

theorem val_of_legal_bool {o : Slot} (h : o.legal = true) (hkind : o.kind = 1) : o.val = 0 ∨ o.val = 1 := by
  have hlegal : o.legal = (o.scalarOk 1 && decide (o.val.toNat ≤ 1)) := by rw [Slot.legal, hkind]; rfl
  rw [hlegal, Bool.and_eq_true, decide_eq_true_eq] at h
  obtain hzero | hone : o.val.toNat = 0 ∨ o.val.toNat = 1 := by omega
  · exact .inl (BitVec.eq_of_toNat_eq hzero)
  · exact .inr (BitVec.eq_of_toNat_eq hone)

theorem str_of_legal_string {o : Slot} (h : o.legal = true) (hkind : o.kind = 12) {j : Nat} (hj : j < 15)
    (hslen : o.slen.toNat ≤ j) : o.str.toList.getD j 0 = 0 := by
  have hlegal : o.legal = o.stringOk := by rw [Slot.legal, hkind]; rfl
  rw [hlegal, Slot.stringOk, Bool.and_eq_true, List.all_eq_true] at h
  have hlen : j < o.str.toList.length := by rwa [Vector.length_toList]
  rw [List.getD_eq_getElem _ _ hlen]
  have hmem : o.str.toList[j] ∈ o.str.toList.drop o.slen.toNat :=
    List.mem_drop_iff_getElem.2 ⟨j - o.slen.toNat, by omega, by simp only [Nat.add_sub_cancel' hslen]⟩
  exact beq_iff_eq.1 (h.2 _ hmem)

end Machine

open Machine

/-- Settles O26: a ready byte's parse succeeded, and a successful parse stages a legal message. -/
theorem readyMessageIsLegal : Obligations.ReadyMessageIsLegal := by
  unfold Obligations.ReadyMessageIsLegal
  intro s b t h hflag
  obtain ⟨hlast, hcrc, hparse⟩ := (report_flag_eq_true_iff h).1 hflag
  rw [exec_syncPut_of_crc_eq hlast hcrc] at h
  rcases hbody : bodyParse (Memory.slice s.buf 0 (offsetOf s) ++ [b]) s.msg with ⟨m, ok⟩
  rw [hbody] at h hparse
  obtain rfl : ok = true := hparse
  cases h
  obtain ⟨hlegal, -⟩ := bodyParse_ok_objects hbody
  have hobjects := Message.objects_length m
  refine ⟨rfl, hobjects, Nat.le_of_lt_succ m.len.isLt, fun o ho => ?_⟩
  have ho := ((legalMessage_iff _).1 hlegal).2 o ho
  obtain ⟨hlo, hhi⟩ := kind_of_legal ho
  exact ⟨ho, hlo, hhi, val_of_legal_bool ho, fun hkind j => str_of_legal_string ho hkind⟩

end Sys2Proof
end

section
/-! PROOF. Byte streams (30_encoding.md R75): `SYNC.FEED` in closed form, and the bytes of the candidate it leaves. -/

namespace Sys2Proof

namespace Machine

/-- The state a stream ends in. -/
def feedEnd (bs : List Byte) (s : State) : State := bs.foldl (fun s b => syncNext b s) s

/-- The reports of a stream's bytes. -/
def feedReports : List Byte → State → List PutReport
  | [], _ => []
  | b :: bs, s => (syncNext b s).report :: feedReports bs (syncNext b s)

theorem feedEnd_cons (b : Byte) (bs : List Byte) (s : State) : feedEnd (b :: bs) s = feedEnd bs (syncNext b s) := rfl

theorem feedEnd_append (a c : List Byte) (s : State) : feedEnd (a ++ c) s = feedEnd c (feedEnd a s) :=
  List.foldl_append

theorem feedReports_append (a c : List Byte) (s : State) :
    feedReports (a ++ c) s = feedReports a s ++ feedReports c (feedEnd a s) := by
  induction a generalizing s with
  | nil => rfl
  | cons b a ih => rw [List.cons_append, feedReports, feedReports, ih, feedEnd_cons, List.cons_append]

theorem feedReports_length (bs : List Byte) (s : State) : (feedReports bs s).length = bs.length := by
  induction bs generalizing s with
  | nil => rfl
  | cons b bs ih => rw [feedReports, List.length_cons, List.length_cons, ih]

/-- `SYNC.FEED` always ends: no `SYNC.PUT` faults or is refused. -/
theorem feed_eq (bs : List Byte) (s : State) : feed bs s = some (feedReports bs s, feedEnd bs s) := by
  induction bs generalizing s with
  | nil => rfl
  | cons b bs ih =>
    rw [feed, exec_syncPut]
    exact congrArg (Option.map _) (ih (syncNext b s))

theorem feed_eq_some_iff {bs : List Byte} {s t : State} {reports : List PutReport} :
    feed bs s = some (reports, t) ↔ feedReports bs s = reports ∧ feedEnd bs s = t := by
  rw [feed_eq, Option.some_inj, Prod.mk.injEq]

theorem runOps_syncFeed (bs : List Byte) (s : State) : runOps (syncFeed bs) s = .next (feedEnd bs s) := by
  induction bs generalizing s with
  | nil => rfl
  | cons b bs ih =>
    change andThen (exec (.syncPut b) s) (runOps (syncFeed bs)) = _
    rw [exec_syncPut, andThen_next, ih, feedEnd_cons]

theorem candidate_feedEnd (bs : List Byte) {s : State} (h : Candidate s ∧ Pending s) :
    Candidate (feedEnd bs s) ∧ Pending (feedEnd bs s) := by
  induction bs generalizing s with
  | nil => exact h
  | cons b bs ih => exact ih (candidate_syncNext b h.1 h.2)

/-- The candidate a stream leaves is the stream's last bytes, after a beginning that leaves the synchronizer idle. -/
theorem exists_idle_beginning (bs : List Byte) {s : State} (hs : s.len = 0) :
    ∃ before, bs = before ++ Memory.slice (feedEnd bs s).buf 0 (feedEnd bs s).len.toNat ∧
      (feedEnd before s).len = 0 := by
  induction bs using List.reverseRecOn with
  | nil => exact ⟨[], by rw [feedEnd, List.foldl_nil, hs]; rfl, hs⟩
  | append_singleton bs b ih =>
    obtain ⟨before, hsplit, hidle⟩ := ih
    obtain ⟨hc, hp⟩ := candidate_feedEnd bs (candidate_of_idle hs)
    have hend : feedEnd (bs ++ [b]) s = syncNext b (feedEnd bs s) := feedEnd_append bs [b] s
    cases hend ▸ putEnd_syncNext b hc hp with
    | grows _ _ _ hbytes =>
      refine ⟨before, ?_, hidle⟩
      rw [hbytes, ← List.append_assoc, ← hsplit]
    | rejected _ _ hlen | ready hlen =>
      refine ⟨bs ++ [b], ?_, hlen⟩
      rw [hlen]
      exact (List.append_nil _).symm

end Machine

open Machine

/-- Settles O38: by the closed form of the stream's end. -/
theorem feedIsItsPuts : Obligations.FeedIsItsPuts := by
  unfold Obligations.FeedIsItsPuts
  exact fun bs s => ⟨_, _, feed_eq bs s, feedReports_length bs s, runOps_syncFeed bs s⟩

/-- Settles O44: while `len` is not 0 it grows with every byte, and the invariant bounds it by 246. -/
theorem candidateEndsWithin247Bytes : Obligations.CandidateEndsWithin247Bytes := by
  unfold Obligations.CandidateEndsWithin247Bytes
  intro s bs hs hbs
  induction bs generalizing s with
  | nil =>
    have hle := hs.len_le
    rw [List.length_nil] at hbs
    omega
  | cons b bs ih =>
    obtain hzero | hgrown := syncNext_len b s
    · exact ⟨1, _, _, le_rfl, by simp, feed_eq [b] s, hzero⟩
    · rw [offsetOf_of_lt (Nat.lt_succ_of_le hs.len_le)] at hgrown
      have hle := (inv_syncNext b hs).len_le
      rw [List.length_cons] at hbs
      obtain ⟨k, reports, t, -, hk, hfeed, hlen⟩ := ih (syncNext b s) (inv_syncNext b hs) (by omega)
      obtain ⟨-, rfl⟩ := feed_eq_some_iff.1 hfeed
      exact ⟨k + 1, _, _, by omega, Nat.succ_le_succ hk, feed_eq _ _, hlen⟩

/-- Settles O46: the last byte completes the candidate, which is the stream's last bytes. -/
theorem readyMessageIsInTheStream : Obligations.ReadyMessageIsInTheStream := by
  unfold Obligations.ReadyMessageIsInTheStream
  intro s t bs reports cause hs hfeed hlast
  obtain ⟨rfl, rfl⟩ := feed_eq_some_iff.1 hfeed
  cases bs using List.reverseRecOn with
  | nil => cases hlast
  | append_singleton bs b =>
    obtain ⟨before, hsplit, -⟩ := exists_idle_beginning bs hs
    obtain ⟨hc, hp⟩ := candidate_feedEnd bs (candidate_of_idle hs)
    rw [feedReports_append, feedReports, feedReports, List.getLast?_concat, Option.some_inj] at hlast
    rw [feedEnd_append, feedEnd_cons]
    cases putEnd_syncNext b hc hp with
    | rejected _ _ _ _ hreport | grows _ _ hreport => rw [hreport] at hlast; cases hlast
    | ready _ _ _ hframe => exact ⟨before, _, by rw [← List.append_assoc, ← hsplit], hframe⟩

end Sys2Proof
end

section
/-! PROOF. The synchronizer against `FRAME_DECODE` (42_sync_put.md R152, 44_frame_reference.md R208): a candidate
that some frame begins with takes the frame's next byte, is complete with the frame's last byte, and not before. -/

namespace Sys2Proof

namespace Machine

/-! ## The next byte of a frame -/

theorem bodyCounters_of_frameDecode {f : List Byte} {m : List Slot} (h : frameDecode f = some m) :
    bodyCounters (f.drop 6) = some (0, 0) := by
  obtain ⟨-, -, -, -, hlegal, hbody⟩ := frameDecode_eq_some_iff.1 h
  rw [hbody, bodyCounters_frameBody hlegal]

/-- No frame begins another. -/
theorem eq_nil_of_bodyCounters_append {body rest : List Byte} (hbody : bodyCounters body = some (0, 0))
    (h : bodyCounters (body ++ rest) = some (0, 0)) : rest = [] := by
  have hne : body ≠ [] := by
    rintro rfl
    cases hbody
  rw [bodyCounters_append _ hne, hbody] at h
  exact countersAfter_zero_done h

theorem eq_nil_of_frameDecode_append {f rest : List Byte} {m m' : List Slot} (h : frameDecode f = some m)
    (h' : frameDecode (f ++ rest) = some m') : rest = [] := by
  obtain ⟨⟨hlen, -⟩, -⟩ := frameDecode_eq_some_iff.1 h
  have happend := bodyCounters_of_frameDecode h'
  rw [List.drop_append_of_le_length (by omega)] at happend
  exact eq_nil_of_bodyCounters_append (bodyCounters_of_frameDecode h) happend

/-- A frame's body from the candidate that begins it. -/
theorem slice_append_drop_six {s : State} (tail : List Byte) (h : 6 ≤ s.len.toNat) :
    (Memory.slice s.buf 0 s.len.toNat ++ tail).drop 6 = Memory.slice s.buf 6 (s.len.toNat - 6) ++ tail := by
  rw [List.drop_append_of_le_length (by rwa [Memory.slice_length]), Memory.slice_drop]

/-- A frame's next byte inside the body is a payload byte or a known tag, as the counters say. -/
theorem stores_of_frame_body {b : Byte} {s : State} {rest : List Byte} (hcount : Counted s) (hlen : 7 ≤ s.len.toNat)
    (h : bodyCounters (Memory.slice s.buf 6 (s.len.toNat - 6) ++ b :: rest) = some (0, 0)) : ∃ u, Stores b s u := by
  have hne : Memory.slice s.buf 6 (s.len.toNat - 6) ≠ [] := by rw [slice_body_eq hlen]; exact List.cons_ne_nil _ _
  rw [bodyCounters_append _ hne] at h
  obtain ⟨p, hp, h⟩ := Option.bind_eq_some_iff.1 h
  obtain ⟨hnonneg, rfl⟩ := hcount.eq_of_bodyCounters hlen hp
  by_cases hbytes : s.remainingBytes = 0
  · rw [hbytes] at h
    obtain ⟨n, t, hobjects, htag, -⟩ := countersAfter_tag_done h
    have hnat := toNat_eq_toInt_of_nonneg hnonneg
    exact ⟨_, .tag t hlen hbytes (by omega) htag⟩
  · exact ⟨_, .payload hlen hbytes⟩

/-- A candidate that a frame begins with stores the frame's next byte. -/
theorem stores_of_frame {b : Byte} {s : State} {rest : List Byte} {m : List Slot} (hc : Candidate s)
    (h : frameDecode (Memory.slice s.buf 0 s.len.toNat ++ b :: rest) = some m) : ∃ u, Stores b s u := by
  have hbyte : (Memory.slice s.buf 0 s.len.toNat ++ b :: rest).getD s.len.toNat 0 = b := by
    rw [List.getD_append_right _ _ _ _ (by rw [Memory.slice_length]), Memory.slice_length, Nat.sub_self]
    rfl
  obtain ⟨-, h0, h1, -, -, hbody⟩ := frameDecode_eq_some_iff.1 h
  have hcounters := bodyCounters_of_frameDecode h
  obtain hlen | hlen | ⟨hlo, hhi⟩ | hlen | hlen : s.len.toNat = 0 ∨ s.len.toNat = 1 ∨
      (2 ≤ s.len.toNat ∧ s.len.toNat ≤ 5) ∨ s.len.toNat = 6 ∨ 7 ≤ s.len.toNat := by omega
  · exact ⟨_, .hdr0 hlen (by rw [← hbyte, ← h0, hlen])⟩
  · exact ⟨_, .hdr1 hlen (by rw [← hbyte, ← h1, hlen])⟩
  · exact ⟨_, .crcField hlo hhi⟩
  · rw [slice_append_drop_six _ hlen.ge, hlen] at hbody
    obtain ⟨rfl, -⟩ := List.cons.inj hbody
    exact ⟨_, .count hlen (countByte_toNat _).1⟩
  · rw [slice_append_drop_six _ (by omega)] at hcounters
    exact stores_of_frame_body (hc.counted hlen) hlen hcounters

/-- A candidate that is a frame has no byte to come. -/
theorem not_pending_of_frameDecode {g : State} {m : List Slot} (hc : Candidate g)
    (h : frameDecode (Memory.slice g.buf 0 g.len.toNat) = some m) : ¬ Pending g := by
  intro hp
  obtain ⟨⟨hlen, -⟩, -⟩ := frameDecode_eq_some_iff.1 h
  rw [Memory.slice_length] at hlen
  have hbody := bodyCounters_of_frameDecode h
  rw [Memory.slice_drop, Nat.zero_add] at hbody
  obtain ⟨-, hzero⟩ := (hc.counted hlen).eq_of_bodyCounters hlen hbody
  obtain ⟨hobjects, hbytes⟩ := Prod.mk.inj hzero
  exact hp hlen ⟨BitVec.eq_of_toNat_eq hobjects.symm, BitVec.eq_of_toNat_eq hbytes.symm⟩

/-- The next byte of a frame is not rejected (R152). -/
theorem cause_of_frame {b : Byte} {s : State} {rest : List Byte} {m : List Slot} (hc : Candidate s) (hp : Pending s)
    (h : frameDecode (Memory.slice s.buf 0 s.len.toNat ++ b :: rest) = some m) :
    (syncNext b s).report.cause = none := by
  have hlt := hc.len_le_of_pending hp
  obtain ⟨u, hstores⟩ := stores_of_frame hc h
  have hcg := candidate_stored hc hlt hstores
  rw [syncNext_of_stores hstores hlt]
  by_cases hpending : Pending (stored b u)
  · rw [afterStoreNext_of_pending hpending]
    rfl
  · obtain ⟨hlen, hobjects, hzero, hnext⟩ := afterStoreNext_of_complete hpending
    have hbytes := hstores.slice_stored_zero hlt
    rw [List.append_cons, ← hbytes] at h
    have hcounters := bodyCounters_of_frameDecode h
    rw [slice_append_drop_six _ (by omega)] at hcounters
    obtain rfl := eq_nil_of_bodyCounters_append (bodyCounters_of_complete hcg hlen hobjects hzero) hcounters
    rw [List.append_nil] at h
    obtain ⟨hcrc, -⟩ := (frameDecode_slice_iff hcg hlen).1 h
    obtain ⟨m', hm'⟩ := bodyParse_of_complete hcg hlen hobjects hzero (stored b u).msg
    rw [hnext, completed_of_crc_eq hcrc hm']
    rfl

/-! ## The rest of a frame -/

/-- The reports of the bytes that complete a frame. -/
def frameReports (n : Nat) : List PutReport := List.replicate (n - 1) ⟨false, none⟩ ++ [⟨true, none⟩]

/-- The rest of a frame, from a candidate that the frame begins with: ready on the last byte and on no other. -/
theorem feed_rest_of_frame {rest : List Byte} {s : State} {m : List Slot} (hc : Candidate s) (hp : Pending s)
    (hne : rest ≠ []) (h : frameDecode (Memory.slice s.buf 0 s.len.toNat ++ rest) = some m) :
    feedReports rest s = frameReports rest.length ∧ (feedEnd rest s).len = 0 ∧ (feedEnd rest s).msgValid = true ∧
      (feedEnd rest s).msg.objects = m := by
  induction rest generalizing s with
  | nil => exact absurd rfl hne
  | cons b rest ih =>
    have hcause := cause_of_frame hc hp h
    rw [List.append_cons] at h
    rw [feedReports, feedEnd_cons]
    cases putEnd_syncNext b hc hp with
    | rejected _ _ _ _ hreport => rw [hreport] at hcause; cases hcause
    | grows _ _ hreport hbytes hct =>
      rw [← hbytes] at h
      have hmore : rest ≠ [] := by
        rintro rfl
        rw [List.append_nil] at h
        exact not_pending_of_frameDecode hct.1 h hct.2
      obtain ⟨hreports, hend⟩ := ih hct.1 hct.2 hmore h
      refine ⟨?_, hend⟩
      have hpos : rest.length ≠ 0 := fun hzero => hmore (List.length_eq_zero_iff.1 hzero)
      rw [hreport, hreports, frameReports, frameReports, List.length_cons,
        show rest.length + 1 - 1 = rest.length - 1 + 1 by omega, List.replicate_succ, List.cons_append]
    | ready hlen hvalid hreport hframe =>
      obtain rfl := eq_nil_of_frameDecode_append hframe h
      rw [List.append_nil, hframe, Option.some_inj] at h
      exact ⟨by rw [hreport]; rfl, hlen, hvalid, h⟩

theorem feed_frame {frame : List Byte} {s : State} {m : List Slot} (hs : s.len = 0) (h : frameDecode frame = some m) :
    feedReports frame s = frameReports frame.length ∧ (feedEnd frame s).len = 0 ∧
      (feedEnd frame s).msgValid = true ∧ (feedEnd frame s).msg.objects = m := by
  obtain ⟨hc, hp⟩ := candidate_of_idle hs
  obtain ⟨⟨hlen, -⟩, -⟩ := frameDecode_eq_some_iff.1 h
  refine feed_rest_of_frame hc hp ?_ (by rw [hs]; exact h)
  rintro rfl
  cases hlen

theorem frameReports_flags (n : Nat) : (frameReports n).map PutReport.flag = readyOnLast n := by
  simp [frameReports, readyOnLast]

theorem cause_of_mem_frameReports {n : Nat} {r : PutReport} (h : r ∈ frameReports n) : r.cause = none := by
  simp only [frameReports, List.mem_append, List.mem_replicate, List.mem_singleton] at h
  obtain ⟨-, rfl⟩ | rfl := h <;> rfl

/-! ## A stream that is ready on its last byte only -/

theorem map_flag_eq_replicate {reports : List PutReport} :
    reports.map PutReport.flag = List.replicate reports.length false ↔ ∀ r ∈ reports, r.flag = false := by
  rw [List.eq_replicate_iff, List.length_map, List.forall_mem_map]
  exact and_iff_right rfl

/-- Its last byte completes the candidate that follows an idle beginning. -/
theorem idleBeginning_of_readyOnLast {stream : List Byte} {s : State} (hs : s.len = 0)
    (h : (feedReports stream s).map PutReport.flag = readyOnLast stream.length) :
    ∃ before frame, stream = before ++ frame ∧ frameDecode frame = some (feedEnd stream s).msg.objects ∧
      (∀ r ∈ feedReports before s, r.flag = false) ∧ (feedEnd before s).len = 0 := by
  cases stream using List.reverseRecOn with
  | nil => cases h
  | append_singleton bs b =>
    obtain ⟨before, hsplit, hidle⟩ := exists_idle_beginning bs hs
    obtain ⟨hc, hp⟩ := candidate_feedEnd bs (candidate_of_idle hs)
    rw [feedReports_append, feedReports, feedReports, List.map_append, readyOnLast, List.length_append,
      List.length_singleton, Nat.add_sub_cancel] at h
    obtain ⟨hbefore, hlast⟩ := List.append_inj' h rfl
    rw [← feedReports_length bs s, map_flag_eq_replicate, hsplit, feedReports_append] at hbefore
    rw [feedEnd_append, feedEnd_cons]
    have hflag : (syncNext b (feedEnd bs s)).report.flag = true := by simpa using hlast
    cases putEnd_syncNext b hc hp with
    | rejected _ _ _ _ hreport | grows _ _ hreport => rw [hreport] at hflag; cases hflag
    | ready _ _ _ hframe =>
      exact ⟨before, _, by rw [← List.append_assoc, ← hsplit], hframe,
        fun r hr => hbefore r (List.mem_append_left _ hr), hidle⟩

theorem readyOnLast_of_idleBeginning {before frame : List Byte} {s : State} {m : List Slot}
    (hframe : frameDecode frame = some m) (hflags : ∀ r ∈ feedReports before s, r.flag = false)
    (hidle : (feedEnd before s).len = 0) :
    (feedReports (before ++ frame) s).map PutReport.flag = readyOnLast (before ++ frame).length ∧
      (feedEnd (before ++ frame) s).msg.objects = m := by
  obtain ⟨hreports, -, -, hmsg⟩ := feed_frame hidle hframe
  obtain ⟨⟨hlen, -⟩, -⟩ := frameDecode_eq_some_iff.1 hframe
  rw [feedReports_append, feedEnd_append, List.map_append, map_flag_eq_replicate.2 hflags, feedReports_length,
    hreports, frameReports_flags, readyOnLast, readyOnLast, ← List.append_assoc, ← List.replicate_add,
    List.length_append, Nat.add_sub_assoc (by omega)]
  exact ⟨rfl, hmsg⟩

/-- A beginning that leaves the synchronizer idle without a ready byte ends in a reject, if it has a byte. -/
theorem eq_nil_of_no_reject {before : List Byte} {s : State} (hs : s.len = 0)
    (hflags : ∀ r ∈ feedReports before s, r.flag = false) (hcauses : ∀ r ∈ feedReports before s, r.cause = none)
    (hidle : (feedEnd before s).len = 0) : before = [] := by
  cases before using List.reverseRecOn with
  | nil => rfl
  | append_singleton bs b =>
    obtain ⟨hc, hp⟩ := candidate_feedEnd bs (candidate_of_idle hs)
    have hmem : (syncNext b (feedEnd bs s)).report ∈ feedReports (bs ++ [b]) s := by
      rw [feedReports_append]
      exact List.mem_append_right _ (List.mem_singleton_self _)
    have hflag := hflags _ hmem
    have hcause := hcauses _ hmem
    rw [feedEnd_append, feedEnd_cons] at hidle
    cases putEnd_syncNext b hc hp with
    | rejected _ _ _ _ hreport => rw [hreport] at hcause; cases hcause
    | grows hlen =>
      change (syncNext b (feedEnd bs s)).len = 0 at hidle
      rw [hidle] at hlen
      cases hlen
    | ready _ _ hreport => rw [hreport] at hflag; cases hflag

end Machine

open Machine

/-- Settles O53: the candidate that the last byte completes, and a frame fed from idle. -/
theorem readyOnLastIffIdlePrefixThenFrame : Obligations.ReadyOnLastIffIdlePrefixThenFrame := by
  unfold Obligations.ReadyOnLastIffIdlePrefixThenFrame
  intro s stream m hs
  constructor
  · rintro ⟨reports, t, hfeed, hflags, rfl⟩
    obtain ⟨rfl, rfl⟩ := feed_eq_some_iff.1 hfeed
    obtain ⟨before, frame, hsplit, hframe, hbefore, hidle⟩ := idleBeginning_of_readyOnLast hs hflags
    exact ⟨before, frame, hsplit, hframe, _, _, feed_eq before s, hbefore, hidle⟩
  · rintro ⟨before, frame, rfl, hframe, reports, t, hfeed, hbefore, hidle⟩
    obtain ⟨rfl, rfl⟩ := feed_eq_some_iff.1 hfeed
    exact ⟨_, _, feed_eq _ s, readyOnLast_of_idleBeginning hframe hbefore hidle⟩

/-- Settles O48: with no reject the idle beginning is empty. -/
theorem streamAndOneShotAgreeWithoutRejects : Obligations.StreamAndOneShotAgreeWithoutRejects := by
  unfold Obligations.StreamAndOneShotAgreeWithoutRejects
  intro s frame m hs
  constructor
  · intro h
    obtain ⟨hreports, -, -, hmsg⟩ := feed_frame hs h
    refine ⟨_, _, feed_eq frame s, ?_, fun r hr => ?_, hmsg⟩
    · rw [hreports, frameReports_flags]
    · exact cause_of_mem_frameReports (hreports ▸ hr)
  · rintro ⟨reports, t, hfeed, hflags, hcauses, rfl⟩
    obtain ⟨rfl, rfl⟩ := feed_eq_some_iff.1 hfeed
    obtain ⟨before, frame', rfl, hframe, hbefore, hidle⟩ := idleBeginning_of_readyOnLast hs hflags
    have hnil : before = [] := eq_nil_of_no_reject hs hbefore (fun r hr => hcauses r (by
      rw [feedReports_append]
      exact List.mem_append_left _ hr)) hidle
    subst hnil
    exact hframe

/-- Refutes O49: the byte `00`, rejected, before the empty frame (V20) reports `flag = 0` like a stored one. -/
theorem not_streamAndOneShotAgreeToTheLetter : ¬ Obligations.StreamAndOneShotAgreeToTheLetter := by
  unfold Obligations.StreamAndOneShotAgreeToTheLetter
  intro h
  have hdecode := (h State.reset [0x00, 0x92, 0xCE, 0x22, 0x0D, 0x7C, 0xC9, 0x90] [] rfl).2
    ⟨_, _, feed_eq _ _, by decide, by decide⟩
  exact absurd hdecode (by decide)

namespace Machine

theorem Message.objects_getElem (m : Message) {i : Nat} (h : i < m.objects.length) (hi : i < 15) :
    m.objects[i] = m.obj[i] := by
  simp [Message.objects]

end Machine

/-- Settles O47: a frame is fed to the end, and the five reads see the slots of the message it stages. -/
theorem cleanFrameIsAcceptedAndReadBack : Obligations.CleanFrameIsAcceptedAndReadBack := by
  unfold Obligations.CleanFrameIsAcceptedAndReadBack
  intro s frame m hs h
  obtain ⟨hreports, hlen, hvalid, rfl⟩ := feed_frame hs h
  refine ⟨feedEnd frame s, feed_eq_some_iff.2 ⟨hreports, rfl⟩, hlen, hvalid, rfl, ?_, fun i j hi hj => ?_⟩
  · obtain ⟨-, hread, -⟩ := messageReadsByTheWindow (feedEnd frame s) 0 0 0
    rw [hread hvalid, Message.objects_length, BitVec.ofNat_toNat]
  · have hslot : i.toNat < (feedEnd frame s).msg.len.toNat := by rwa [Message.objects_length] at hi
    have hmax : i.toNat < 15 := hslot.trans_le (Nat.le_of_lt_succ (feedEnd frame s).msg.len.isLt)
    obtain ⟨-, -, -, hreads⟩ := messageReadsByTheWindow (feedEnd frame s) i j 0
    obtain ⟨-, -, -, -, hread, -⟩ := hreads hmax hj
    rw [Message.objects_getElem _ hi hmax]
    exact hread hvalid hslot

end Sys2Proof
end

section
/-! PROOF. A count byte below `0x90` (44_frame_reference.md R208): no frame has one; the synchronizer stores it with
a negative count, so that the next byte is surplus. -/

namespace Sys2Proof

namespace Machine

theorem countByte_ge : ∀ n : Nibble, 0x90 ≤ (countByte n).toNat := by decide

/-- A byte of the header or the CRC field, in its place: no candidate is complete before its seventh byte. -/
theorem syncNext_of_stores_header {b : Byte} {s u : State} (h : Stores b s u) (hlen : s.len.toNat ≤ 5) :
    (syncNext b s).report = ⟨false, none⟩ ∧ (syncNext b s).len.toNat = s.len.toNat + 1 := by
  have hlen' := h.len_stored (by omega)
  have hpending : Pending (stored b u) := fun hseven => by omega
  rw [syncNext_of_stores h (by omega), afterStoreNext_of_pending hpending]
  exact ⟨rfl, hlen'⟩

/-- The bytes of the CRC field are stored whatever they are (R144). -/
theorem feed_crcField {cs : List Byte} {s : State} (hlo : 2 ≤ s.len.toNat) (hhi : s.len.toNat + cs.length ≤ 6) :
    feedReports cs s = List.replicate cs.length ⟨false, none⟩ ∧
      (feedEnd cs s).len.toNat = s.len.toNat + cs.length := by
  induction cs generalizing s with
  | nil => exact ⟨rfl, rfl⟩
  | cons c cs ih =>
    rw [List.length_cons] at hhi
    obtain ⟨hreport, hlen⟩ := syncNext_of_stores_header (b := c) (.crcField hlo (by omega)) (by omega)
    obtain ⟨hreports, hend⟩ := ih (s := syncNext c s) (by omega) (by omega)
    rw [feedReports, feedEnd_cons, hreport, hreports, hend, hlen, List.length_cons]
    exact ⟨rfl, by omega⟩

/-- The six bytes before the body, from idle. -/
theorem feed_header {cs : List Byte} {s : State} (hs : s.len = 0) (hcs : cs.length = 4) :
    feedReports (Config.hdr0 :: Config.hdr1 :: cs) s = List.replicate 6 ⟨false, none⟩ ∧
      (feedEnd (Config.hdr0 :: Config.hdr1 :: cs) s).len.toNat = 6 := by
  have hidle : s.len.toNat = 0 := by rw [hs]; rfl
  obtain ⟨hreport0, hlen0⟩ := syncNext_of_stores_header (.hdr0 hidle rfl) (by omega)
  obtain ⟨hreport1, hlen1⟩ := syncNext_of_stores_header (s := syncNext Config.hdr0 s) (.hdr1 (by omega) rfl) (by omega)
  obtain ⟨hreports, hend⟩ := feed_crcField (cs := cs) (s := syncNext Config.hdr1 (syncNext Config.hdr0 s)) (by omega)
    (by omega)
  rw [feedReports, feedReports, feedEnd_cons, feedEnd_cons, hreport0, hreport1, hreports, hcs]
  exact ⟨rfl, by omega⟩

/-- A count byte below the base leaves a negative count and no payload byte to come (R145). -/
theorem syncNext_of_negative_count {n : Byte} {s : State} (hlen : s.len.toNat = 6) (hn : n.toNat < 0x90) :
    (syncNext n s).report = ⟨false, none⟩ ∧ (syncNext n s).len.toNat = 7 ∧
      (syncNext n s).remainingObjects.toInt < 0 ∧ (syncNext n s).remainingBytes = 0 := by
  obtain ⟨u, hstores⟩ : ∃ u, Stores n s u := ⟨_, .count hlen (by omega)⟩
  have hlen' := hstores.len_stored (by omega)
  obtain ⟨hobjects, hbytes, -⟩ := hstores.count_counters hlen
  have hcount := countOf_eq n
  have hpending : Pending (stored n u) := fun _ hzero => by
    rw [hzero.1] at hobjects
    change (0 : Int) = countOf n at hobjects
    omega
  rw [syncNext_of_stores hstores (by omega), afterStoreNext_of_pending hpending]
  exact ⟨rfl, hlen'.trans (by omega), hobjects.trans_lt (by omega), hbytes⟩

theorem syncNext_of_surplus {s : State} (b : Byte) (hlen : s.len.toNat = 7) (hobjects : s.remainingObjects.toInt ≤ 0)
    (hbytes : s.remainingBytes = 0) : syncNext b s = rejected s .surplus := by
  obtain ⟨-, -, hsurplus⟩ := bodyByteByBranch s b hlen.ge (by omega)
  have hstep := hsurplus hbytes hobjects
  rw [exec_syncPut] at hstep
  exact Host.Outcome.next.inj hstep

end Machine

open Machine

/-- Settles O54: the encoder emits no such count byte; the synchronizer stores it, and the next byte is surplus. -/
theorem countByteBelowTheBaseIsRefusedByBoth : Obligations.CountByteBelowTheBaseIsRefusedByBoth := by
  unfold Obligations.CountByteBelowTheBaseIsRefusedByBoth
  intro s c0 c1 c2 c3 n next rest hs hn
  constructor
  · by_contra hsome
    obtain ⟨m, h⟩ := Option.ne_none_iff_exists'.1 hsome
    obtain ⟨-, -, -, -, -, hbody⟩ := frameDecode_eq_some_iff.1 h
    have hcount : n = countByte (BitVec.ofNat 4 m.length) := (List.cons.inj hbody).1
    have hge := countByte_ge (BitVec.ofNat 4 m.length)
    rw [← hcount] at hge
    omega
  · obtain ⟨hheader, hlen⟩ := feed_header (cs := [c0, c1, c2, c3]) hs rfl
    obtain ⟨hreport, hlen7, hobjects, hbytes⟩ := syncNext_of_negative_count hlen hn
    have hlast := syncNext_of_surplus next hlen7 hobjects.le hbytes
    have hsplit : [0x92, 0xCE, c0, c1, c2, c3, n, next] =
        (Config.hdr0 :: Config.hdr1 :: [c0, c1, c2, c3]) ++ [n, next] := rfl
    refine ⟨_, feed_eq_some_iff.2 ⟨?_, rfl⟩, ?_⟩
    · rw [hsplit, feedReports_append, hheader, feedReports, feedReports, feedReports, hreport, hlast]
      rfl
    · rw [hsplit, feedEnd_append, feedEnd_cons, feedEnd_cons, hlast]
      exact ⟨rfl, rfl⟩

end Sys2Proof
end
